-- ==== Sys2Proof/Word.lean ====
section
/-! DEFINITION. The word types of the core (00_scope.md R7, R10): every value is unsigned. -/

namespace Sys2Proof

/-- An 8-bit value: a general register, a timer, a byte of memory (R7, R21). -/
abbrev Byte := BitVec 8

/-- A 16-bit value: the instruction word, `pc`, `I` (R7, R24, R28). -/
abbrev Word := BitVec 16

/-- The 12-bit address operand NNN (R81, R83). -/
abbrev Addr12 := BitVec 12

/-- A register index, 0 to 15: the fields X and Y, and `Wait.reg` (R15, R21, R33). -/
abbrev Reg := Fin 16

/-- The register VF, which doubles as the flag (R22). -/
abbrev VF : Reg := 15

end Sys2Proof
end

