-- ==== Sys2Proof/Syntax.lean ====
section
/-! DEFINITION. The 35 instructions (30_encoding.md R84), one constructor per row of opcode_table.json. -/

namespace Sys2Proof

/-- An instruction with its decoded operands (R81, R83): register indices X and Y, the row count N,
the immediate byte KK and the address NNN. -/
inductive Instr where
  /-- `0NNN` SYS addr (R100). -/
  | sys (nnn : Addr12)
  /-- `00E0` CLS (R163). -/
  | cls
  /-- `00EE` RET (R103). -/
  | ret
  /-- `1NNN` JP addr (R101). -/
  | jp (nnn : Addr12)
  /-- `2NNN` CALL addr (R102). -/
  | call (nnn : Addr12)
  /-- `3XKK` SE Vx, byte (R104). -/
  | seByte (x : Reg) (kk : Byte)
  /-- `4XKK` SNE Vx, byte (R105). -/
  | sneByte (x : Reg) (kk : Byte)
  /-- `5XY0` SE Vx, Vy (R106). -/
  | seReg (x y : Reg)
  /-- `6XKK` LD Vx, byte (R120). -/
  | ldByte (x : Reg) (kk : Byte)
  /-- `7XKK` ADD Vx, byte (R121). -/
  | addByte (x : Reg) (kk : Byte)
  /-- `8XY0` LD Vx, Vy (R122). -/
  | ldReg (x y : Reg)
  /-- `8XY1` OR Vx, Vy (R123). -/
  | orReg (x y : Reg)
  /-- `8XY2` AND Vx, Vy (R124). -/
  | andReg (x y : Reg)
  /-- `8XY3` XOR Vx, Vy (R125). -/
  | xorReg (x y : Reg)
  /-- `8XY4` ADD Vx, Vy (R126). -/
  | addReg (x y : Reg)
  /-- `8XY5` SUB Vx, Vy (R127). -/
  | sub (x y : Reg)
  /-- `8XY6` SHR Vx, Vy (R128). -/
  | shr (x y : Reg)
  /-- `8XY7` SUBN Vx, Vy (R129). -/
  | subn (x y : Reg)
  /-- `8XYE` SHL Vx, Vy (R130). -/
  | shl (x y : Reg)
  /-- `9XY0` SNE Vx, Vy (R107). -/
  | sneReg (x y : Reg)
  /-- `ANNN` LD I, addr (R150). -/
  | ldI (nnn : Addr12)
  /-- `BNNN` JP V0, addr (R108). -/
  | jpV0 (nnn : Addr12)
  /-- `CXKK` RND Vx, byte (R131). -/
  | rnd (x : Reg) (kk : Byte)
  /-- `DXYN` DRW Vx, Vy, nibble (R164); `n` is the row count. -/
  | drw (x y : Reg) (n : Fin 16)
  /-- `EX9E` SKP Vx (R180). -/
  | skp (x : Reg)
  /-- `EXA1` SKNP Vx (R181). -/
  | sknp (x : Reg)
  /-- `FX07` LD Vx, DT (R190). -/
  | ldVxDt (x : Reg)
  /-- `FX0A` LD Vx, K (R182). -/
  | ldVxK (x : Reg)
  /-- `FX15` LD DT, Vx (R191). -/
  | ldDtVx (x : Reg)
  /-- `FX18` LD ST, Vx (R192). -/
  | ldStVx (x : Reg)
  /-- `FX1E` ADD I, Vx (R193). -/
  | addIVx (x : Reg)
  /-- `FX29` LD F, Vx (R151). -/
  | ldFVx (x : Reg)
  /-- `FX33` LD B, Vx (R194). -/
  | ldBVx (x : Reg)
  /-- `FX55` LD [I], Vx (R195): bulk store. -/
  | storeRegs (x : Reg)
  /-- `FX65` LD Vx, [I] (R196): bulk load. -/
  | loadRegs (x : Reg)
  deriving DecidableEq, Repr

end Sys2Proof
end

