-- ==== Sys2Proof/Decode.lean ====
section
/-! DEFINITION. The decoder, total on every word (30_encoding.md R84 to R89, R94), and the encoder (R97). -/

namespace Sys2Proof

/-- The outcome of decoding a word (R94): an instruction, or a rejection by name. -/
inductive Decoded where
  /-- One of the 35 instructions. -/
  | instr (i : Instr)
  /-- No instruction; the source's no-op (R87, R88). -/
  | unrecognised
  /-- No instruction; whether the reference recognises it is unknown (R89). SYS words, which R89 also
  calls ambiguous, decode to `Instr.sys` and follow the same policy (R100). -/
  | ambiguous
  deriving DecidableEq, Repr

/-- F, bits 15:12 (R81). -/
def fieldF (w : Word) : Nat := w.toNat / 0x1000

/-- X, bits 11:8 (R81). -/
def fieldX (w : Word) : Reg := Fin.ofNat 16 (w.toNat / 0x100)

/-- Y, bits 7:4 (R81). -/
def fieldY (w : Word) : Reg := Fin.ofNat 16 (w.toNat / 0x10)

/-- N, bits 3:0 (R81). -/
def fieldN (w : Word) : Fin 16 := Fin.ofNat 16 w.toNat

/-- KK, bits 7:0 (R81). -/
def fieldKK (w : Word) : Byte := BitVec.ofNat 8 w.toNat

/-- NNN, bits 11:0 (R81). -/
def fieldNNN (w : Word) : Addr12 := BitVec.ofNat 12 w.toNat

/-- Family 0 (R85). -/
def decodeFamily0 (w : Word) : Decoded :=
  if fieldNNN w = 0x0E0 then .instr .cls
  else if fieldNNN w = 0x0EE then .instr .ret
  else .instr (.sys (fieldNNN w))

/-- Families 5 and 9 (R86): only N = 0 is an instruction. -/
def decodeIfN0 (w : Word) (i : Instr) : Decoded :=
  if fieldN w = 0 then .instr i else .ambiguous

/-- Family 8 (R84, R87): N selects. -/
def decodeFamily8 (w : Word) : Decoded :=
  match (fieldN w).val with
  | 0x0 => .instr (.ldReg (fieldX w) (fieldY w))
  | 0x1 => .instr (.orReg (fieldX w) (fieldY w))
  | 0x2 => .instr (.andReg (fieldX w) (fieldY w))
  | 0x3 => .instr (.xorReg (fieldX w) (fieldY w))
  | 0x4 => .instr (.addReg (fieldX w) (fieldY w))
  | 0x5 => .instr (.sub (fieldX w) (fieldY w))
  | 0x6 => .instr (.shr (fieldX w) (fieldY w))
  | 0x7 => .instr (.subn (fieldX w) (fieldY w))
  | 0xE => .instr (.shl (fieldX w) (fieldY w))
  | _ => .unrecognised

/-- Family E (R84, R89): KK selects. -/
def decodeFamilyE (w : Word) : Decoded :=
  match (fieldKK w).toNat with
  | 0x9E => .instr (.skp (fieldX w))
  | 0xA1 => .instr (.sknp (fieldX w))
  | _ => .ambiguous

/-- Family F (R84, R89): KK selects. -/
def decodeFamilyF (w : Word) : Decoded :=
  match (fieldKK w).toNat with
  | 0x07 => .instr (.ldVxDt (fieldX w))
  | 0x0A => .instr (.ldVxK (fieldX w))
  | 0x15 => .instr (.ldDtVx (fieldX w))
  | 0x18 => .instr (.ldStVx (fieldX w))
  | 0x1E => .instr (.addIVx (fieldX w))
  | 0x29 => .instr (.ldFVx (fieldX w))
  | 0x33 => .instr (.ldBVx (fieldX w))
  | 0x55 => .instr (.storeRegs (fieldX w))
  | 0x65 => .instr (.loadRegs (fieldX w))
  | _ => .ambiguous

/-- The decoder (R84 to R89, R94). The last arm is family F, the only one left. -/
def decode (w : Word) : Decoded :=
  match fieldF w with
  | 0x0 => decodeFamily0 w
  | 0x1 => .instr (.jp (fieldNNN w))
  | 0x2 => .instr (.call (fieldNNN w))
  | 0x3 => .instr (.seByte (fieldX w) (fieldKK w))
  | 0x4 => .instr (.sneByte (fieldX w) (fieldKK w))
  | 0x5 => decodeIfN0 w (.seReg (fieldX w) (fieldY w))
  | 0x6 => .instr (.ldByte (fieldX w) (fieldKK w))
  | 0x7 => .instr (.addByte (fieldX w) (fieldKK w))
  | 0x8 => decodeFamily8 w
  | 0x9 => decodeIfN0 w (.sneReg (fieldX w) (fieldY w))
  | 0xA => .instr (.ldI (fieldNNN w))
  | 0xB => .instr (.jpV0 (fieldNNN w))
  | 0xC => .instr (.rnd (fieldX w) (fieldKK w))
  | 0xD => .instr (.drw (fieldX w) (fieldY w) (fieldN w))
  | 0xE => decodeFamilyE w
  | _ => decodeFamilyF w

/-- A word in memory order, the high byte first (R57, R80). -/
def wordOfBytes (hi lo : Byte) : Word := hi ++ lo

/-- The high byte of a word, w[15:8]. -/
def highByte (w : Word) : Byte := w.extractLsb' 8 8

/-- The low byte of a word, w[7:0]. -/
def lowByte (w : Word) : Byte := w.extractLsb' 0 8

/-- The two bytes of an instruction as memory holds them, lowest address first. -/
def decodeBytes (hi lo : Byte) : Decoded := decode (wordOfBytes hi lo)

/-- The host's table word: its bits above `nbits` are 0, and its bytes go to the decoder in memory
order. -/
def decodeTableWord (nbits w : Nat) : Option Instr :=
  match decodeBytes (highByte (BitVec.ofNat 16 (w % 2 ^ nbits))) (lowByte (BitVec.ofNat 16 (w % 2 ^ nbits))) with
  | .instr i => some i
  | .unrecognised => none
  | .ambiguous => none

/-- Format A (R82): family and NNN. -/
def encodeA (f : Nat) (nnn : Addr12) : Word := BitVec.ofNat 16 (f * 0x1000 + nnn.toNat)

/-- Formats XK and X (R82): family, X and the low byte. -/
def encodeXK (f : Nat) (x : Reg) (kk : Byte) : Word :=
  BitVec.ofNat 16 (f * 0x1000 + x.val * 0x100 + kk.toNat)

/-- Format XY (R82): family, X, Y and the low nibble. -/
def encodeXY (f : Nat) (x y : Reg) (n : Fin 16) : Word :=
  BitVec.ofNat 16 (f * 0x1000 + x.val * 0x100 + y.val * 0x10 + n.val)

/-- The encoder (R97), from the match values of opcode_table.json. -/
def encode : Instr → Word
  | .sys nnn => encodeA 0x0 nnn
  | .cls => 0x00E0
  | .ret => 0x00EE
  | .jp nnn => encodeA 0x1 nnn
  | .call nnn => encodeA 0x2 nnn
  | .seByte x kk => encodeXK 0x3 x kk
  | .sneByte x kk => encodeXK 0x4 x kk
  | .seReg x y => encodeXY 0x5 x y 0x0
  | .ldByte x kk => encodeXK 0x6 x kk
  | .addByte x kk => encodeXK 0x7 x kk
  | .ldReg x y => encodeXY 0x8 x y 0x0
  | .orReg x y => encodeXY 0x8 x y 0x1
  | .andReg x y => encodeXY 0x8 x y 0x2
  | .xorReg x y => encodeXY 0x8 x y 0x3
  | .addReg x y => encodeXY 0x8 x y 0x4
  | .sub x y => encodeXY 0x8 x y 0x5
  | .shr x y => encodeXY 0x8 x y 0x6
  | .subn x y => encodeXY 0x8 x y 0x7
  | .shl x y => encodeXY 0x8 x y 0xE
  | .sneReg x y => encodeXY 0x9 x y 0x0
  | .ldI nnn => encodeA 0xA nnn
  | .jpV0 nnn => encodeA 0xB nnn
  | .rnd x kk => encodeXK 0xC x kk
  | .drw x y n => encodeXY 0xD x y n
  | .skp x => encodeXK 0xE x 0x9E
  | .sknp x => encodeXK 0xE x 0xA1
  | .ldVxDt x => encodeXK 0xF x 0x07
  | .ldVxK x => encodeXK 0xF x 0x0A
  | .ldDtVx x => encodeXK 0xF x 0x15
  | .ldStVx x => encodeXK 0xF x 0x18
  | .addIVx x => encodeXK 0xF x 0x1E
  | .ldFVx x => encodeXK 0xF x 0x29
  | .ldBVx x => encodeXK 0xF x 0x33
  | .storeRegs x => encodeXK 0xF x 0x55
  | .loadRegs x => encodeXK 0xF x 0x65

end Sys2Proof
end

