-- ==== Sys2Proof/Config.lean ====
section
/-! DEFINITION. What the spec fixes for every core (R7), the parameters it leaves open (R8), and the free values. -/

namespace Sys2Proof

/-- STACK_BYTE_ORDER (R8, R54): the order of a call-stack entry's two bytes. OPEN, no default. -/
inductive StackByteOrder where
  | big
  | little
  deriving DecidableEq, Repr, Inhabited

/-- VF_WRITE_ORDER (R8, R141): which write to VF remains when a flag-writing instruction has
destination VF. OPEN, no default. -/
inductive VfWriteOrder where
  | flagLast
  | resultLast
  deriving DecidableEq, Repr, Inhabited

/-- SHIFT_SOURCE (R8, R128, R130): the register that SHR and SHL shift. -/
inductive ShiftSource where
  | vx
  | vy
  deriving DecidableEq, Repr, Inhabited

/-- BCD_MODE (R8, R194): the bytes that FX33 stores. -/
inductive BcdMode where
  | decimal
  | referenceShift
  deriving DecidableEq, Repr, Inhabited

/-- AMBIGUOUS_WORD_POLICY (R8, R89): what a word does whose recognition the source leaves unknown. -/
inductive AmbiguousWordPolicy where
  | noop
  | refuse
  deriving DecidableEq, Repr, Inhabited

/-- The parameters a step reads: arguments of the machine (R8, R43). FONT is an argument of
construction alone, and the RND draw is `Config.draw`. -/
structure Params where
  stackByteOrder      : StackByteOrder
  vfWriteOrder        : VfWriteOrder
  shiftSource         : ShiftSource
  bcdMode             : BcdMode
  ambiguousWordPolicy : AmbiguousWordPolicy
  deriving DecidableEq, Repr

namespace Config

/-- MEM_SIZE (R7, R50): addresses 0x000 to 0xFFF. -/
abbrev memSize : Nat := 0x1000

/-- PROG_BASE (R7): where the program starts, and the reset vector (R64). -/
abbrev progBase : Nat := 0x200

/-- PROG_CAP (R7): the capacity of the program region in bytes. -/
abbrev progCap : Nat := 0xCA0

/-- STACK_BASE (R7, R54): the address of call-stack entry 0. -/
abbrev stackBase : Nat := 0xEA0

/-- STACK_DEPTH (R7): the number of call-stack entries. -/
abbrev stackDepth : Nat := 16

/-- FB_BASE (R7, R55): the first byte of the framebuffer. -/
abbrev fbBase : Nat := 0xF00

/-- The framebuffer's size in bytes (R7, R55). -/
abbrev fbSize : Nat := 256

/-- The display's width in pixels (R7). -/
abbrev fbWidth : Nat := 64

/-- The display's height in pixels (R7). -/
abbrev fbHeight : Nat := 32

/-- The size of the glyph table in bytes (R7). -/
abbrev fontSize : Nat := 80

/-- The glyphs of the digits 0 to 7, as R241 lists them (log 5). -/
def fontLow : List Byte :=
  [0xF0, 0x90, 0x90, 0x90, 0xF0] ++ [0x20, 0x60, 0x20, 0x20, 0x70] ++
  [0xF0, 0x10, 0xF0, 0x80, 0xF0] ++ [0xF0, 0x10, 0xF0, 0x10, 0xF0] ++
  [0x90, 0x90, 0xF0, 0x10, 0x10] ++ [0xF0, 0x80, 0xF0, 0x10, 0xF0] ++
  [0xF0, 0x80, 0xF0, 0x90, 0xF0] ++ [0xF0, 0x10, 0x20, 0x40, 0x40]

/-- The glyphs of the digits 8 to F, as R241 lists them (log 5). -/
def fontHigh : List Byte :=
  [0xF0, 0x90, 0xF0, 0x90, 0xF0] ++ [0xF0, 0x90, 0xF0, 0x10, 0xF0] ++
  [0xF0, 0x90, 0xF0, 0x90, 0x90] ++ [0xE0, 0x90, 0xE0, 0x90, 0xE0] ++
  [0xF0, 0x80, 0x80, 0x80, 0xF0] ++ [0xE0, 0x90, 0x90, 0x90, 0xE0] ++
  [0xF0, 0x80, 0xF0, 0x80, 0xF0] ++ [0xF0, 0x80, 0xF0, 0x80, 0x80]

/-- The default of the parameter FONT (R8, R241). DESIGN CHOICE (log 5): the spec's default table. -/
def fontTable : List Byte := fontLow ++ fontHigh

/-- `fontTable` as the argument of `construct`: exactly 80 bytes. -/
def font : Vector Byte fontSize := ⟨fontTable.toArray, by decide⟩

/-- FREE VALUE (log 2): STACK_BYTE_ORDER of the machine after reset, which the spec leaves OPEN. -/
opaque stackByteOrder : StackByteOrder

/-- FREE VALUE (log 2): VF_WRITE_ORDER of the machine after reset, which the spec leaves OPEN. -/
opaque vfWriteOrder : VfWriteOrder

/-- FREE VALUE (R131, log 4): the byte of the k-th RND draw, under no law. -/
opaque draw : Nat → Byte

/-- The parameters of the machine after reset: the OPEN ones free (log 2), the others at the
defaults of R8 (log 3). -/
def params : Params where
  stackByteOrder := stackByteOrder
  vfWriteOrder := vfWriteOrder
  shiftSource := .vx
  bcdMode := .decimal
  ambiguousWordPolicy := .noop

end Config

end Sys2Proof
end

