-- ==== Sys2Proof/Machine/State.lean ====
section
/-! DEFINITION. The architectural state (10_state.md R20), the faults (R212) and refusals (R213), and the state after reset (R39). -/

namespace Sys2Proof.Machine

/-- The faults of R212, each with the values R212 records. They are the spec's marks for behaviour
the source leaves undefined (R211); stopping there is SAFE (log 13). -/
inductive Fault where
  /-- F_PC_MISALIGNED: the fetch of any step at an odd `pc` (R92). Safe. -/
  | pcMisaligned (pc : Word)
  /-- F_PC_RANGE: the fetch of any step at an even `pc` below 0x200 (R92). Safe. -/
  | pcRange (pc : Word)
  /-- F_STACK_OVERFLOW: CALL with 16 entries in use (R102). Safe. -/
  | stackOverflow (pc w : Word)
  /-- F_STACK_UNDERFLOW: RET with none (R103). Safe. -/
  | stackUnderflow (pc w : Word)
  /-- F_MEM_RANGE: DRW, LD B, LD [I] and LD Vx, [I] when some accessed address exceeds 0xFFF; `addr` is
  the lowest such address (R56). RET too, in states no run reaches (log 14). Safe. -/
  | memRange (pc w : Word) (addr : Nat)
  /-- F_KEY_RANGE: SKP and SKNP when V[X] names no key (R183). Safe. -/
  | keyRange (pc w : Word) (key : Byte)
  deriving DecidableEq, Repr

/-- The refusals of R213, and the host's name for an instruction without a meaning. -/
inductive Refusal where
  /-- Raised only by a refused arm of `exec`, for an instruction not modelled yet. Safe. -/
  | notModelled (mnemonic : String)
  /-- AMBIGUOUS_WORD: raised by SYS and by the step for a word of R89, under
  AMBIGUOUS_WORD_POLICY = REFUSE alone. Safe. -/
  | ambiguousWord (pc w : Word)
  /-- HOST_PRECONDITION: raised by a host move outside its precondition (R232 to R234). Safe. -/
  | hostPrecondition
  deriving DecidableEq, Repr

/-- The input-wait latch (R33). -/
structure WaitLatch where
  flag : Bool
  reg  : Reg
  deriving DecidableEq, Repr

/-- Memory as a sparse list of bytes, strictly rising in address, none equal to what an unlisted
address reads as (`Memory.wf` in Machine/Ops.lean). -/
abbrev Memory := List Host.Cell

/-- The state record of R20. `params` and `draws` are the model's own (log 1, log 4): the arguments
of the machine (R43), which no step changes, and the number of RND draws made. -/
structure State where
  mem     : Memory
  v       : Vector Byte 16
  i       : Word
  pc      : Word
  sp      : Byte
  dt      : Byte
  st      : Byte
  wait    : WaitLatch
  keys    : Vector Bool 16
  progLen : Fin (Config.progCap + 1)
  fault   : Option Fault
  params  : Params
  draws   : Nat
  deriving DecidableEq, Repr

/-- What a step answers: a next state, a fault or a refusal. -/
abbrev Result := Host.Outcome State Fault Refusal

/-- The state after construction (R39, R240) with the default FONT and no program (log 6). -/
def State.reset : State where
  mem := []
  v := Vector.replicate 16 0
  i := 0
  pc := 0x200
  sp := 0
  dt := 0
  st := 0
  wait := { flag := false, reg := 0 }
  keys := Vector.replicate 16 false
  progLen := 0
  fault := none
  params := Config.params
  draws := 0

end Sys2Proof.Machine
end

