-- ==== Sys2Proof/Machine/Ops.lean ====
section
/-! DEFINITION. The named operations over memory, the call stack and the registers (00_scope.md R11 to R14, 20_memory.md), and raising a fault. -/

namespace Sys2Proof.Machine

/-! ## Memory (R12, R50) -/

/-- What an address that memory does not list reads as: the contents after construction of the empty
program (R39), FONT at 0x000 to 0x04F and 0x00 above (log 5). -/
def Memory.unlisted (a : Nat) : Byte :=
  if a < Config.fontSize then Config.fontTable.getD a 0 else 0

/-- The canonical form: addresses strictly rising, inside the address space, and no entry equal to
what an unlisted address reads as. Equal memories are then equal lists. -/
abbrev Memory.wf (m : Memory) : Prop :=
  m.Pairwise (fun c d => c.1 < d.1) ∧
    ∀ c ∈ m, c.1 < Config.memSize ∧ c.2 ≠ Memory.unlisted c.1

/-- `MemRead(a, 1)` (R12). It has no side effect (R62). -/
def Memory.read : Memory → Nat → Byte
  | [], a => Memory.unlisted a
  | c :: m, a => if c.1 = a then c.2 else Memory.read m a

/-- List `v` at `a`, keeping the order of addresses. -/
def Memory.putCell (a : Nat) (v : Byte) : Memory → Memory
  | [] => [(a, v)]
  | c :: m =>
    if a < c.1 then (a, v) :: c :: m
    else if c.1 = a then (a, v) :: m
    else c :: Memory.putCell a v m

/-- List nothing at `a`. -/
def Memory.dropCell (a : Nat) (m : Memory) : Memory := m.filter (fun c => c.1 != a)

/-- `MemWrite(a, 1, v)` (R12, R62): it changes only byte `a`. No meaning writes above 0xFFF: each tests
its addresses first (R56); such a write changes nothing (log 22). -/
def Memory.write (m : Memory) (a : Nat) (v : Byte) : Memory :=
  if a < Config.memSize then
    if v = Memory.unlisted a then m.dropCell a else m.putCell a v
  else m

/-- Bytes stored one after another from `a` upwards. -/
def Memory.writeList (m : Memory) (a : Nat) : List Byte → Memory
  | [] => m
  | b :: bs => Memory.writeList (m.write a b) (a + 1) bs

/-- `MemRead(a, 2)` (R12): big-endian, for the fetch (R57). -/
def Memory.readWord (m : Memory) (a : Nat) : Word := wordOfBytes (m.read a) (m.read (a + 1))

/-! ## Registers (R11, R21) -/

/-- `V[r]`. -/
def State.readV (s : State) (r : Reg) : Byte := s.v[r]

/-- `V[r] <- b`. -/
def State.writeV (s : State) (r : Reg) (b : Byte) : State := { s with v := s.v.set r b }

/-- `mem` replaced. -/
def State.setMem (s : State) (m : Memory) : State := { s with mem := m }

/-- The general registers replaced. -/
def State.setRegs (s : State) (v : Vector Byte 16) : State := { s with v := v }

/-- `I <- a`. -/
def State.setI (s : State) (a : Word) : State := { s with i := a }

/-- `pc <- a`. -/
def State.setPc (s : State) (a : Word) : State := { s with pc := a }

/-- `sp <- k`. -/
def State.setSp (s : State) (k : Byte) : State := { s with sp := k }

/-- `DT <- b`. -/
def State.setDt (s : State) (b : Byte) : State := { s with dt := b }

/-- `ST <- b`. -/
def State.setSt (s : State) (b : Byte) : State := { s with st := b }

/-- `Wait.flag` and `Wait.reg` written. -/
def State.setWait (s : State) (l : WaitLatch) : State := { s with wait := l }

/-- `Key[k]`. -/
def State.key (s : State) (k : Fin 16) : Bool := s.keys[k]

/-- `Key[k] <- b`. -/
def State.setKey (s : State) (k : Fin 16) (b : Bool) : State := { s with keys := s.keys.set k b }

/-- `L` written, by construction alone (R35). -/
def State.setProgLen (s : State) (l : Fin (Config.progCap + 1)) : State := { s with progLen := l }

/-- The sticky fault mark written (R36, R211). -/
def State.setFault (s : State) (f : Option Fault) : State := { s with fault := f }

/-- The draw counter written (log 4). -/
def State.setDraws (s : State) (n : Nat) : State := { s with draws := n }

/-- One byte of memory. -/
def State.byte (s : State) (a : Nat) : Byte := s.mem.read a

/-- Bytes of memory stored from `a` upwards. -/
def State.store (s : State) (a : Nat) (bs : List Byte) : State := s.setMem (s.mem.writeList a bs)

/-- Where the program ends: `0x200 + L` (R35, R91). -/
def State.progEnd (s : State) : Nat := Config.progBase + s.progLen.val

/-- A conditional skip (R24, R104): `pc` is already past the instruction, and 2 more skips one word. -/
def State.skipIf (s : State) (c : Bool) : State := s.setPc (if c then s.pc + 2 else s.pc)

/-! ## The call stack (R30, R54) -/

/-- The address of entry `k`. -/
def stackEntry (k : Nat) : Nat := Config.stackBase + 2 * k

/-- The byte of an entry at its lower address. -/
def firstByte (o : StackByteOrder) (v : Word) : Byte :=
  match o with
  | .big => highByte v
  | .little => lowByte v

/-- The byte of an entry at its higher address. -/
def secondByte (o : StackByteOrder) (v : Word) : Byte :=
  match o with
  | .big => lowByte v
  | .little => highByte v

/-- The word whose bytes an entry holds, lower address first. -/
def entryWord (o : StackByteOrder) (b0 b1 : Byte) : Word :=
  match o with
  | .big => wordOfBytes b0 b1
  | .little => wordOfBytes b1 b0

/-- `StackWrite(k, v)`. -/
def State.stackWrite (s : State) (k : Nat) (v : Word) : State :=
  s.store (stackEntry k) [firstByte s.params.stackByteOrder v, secondByte s.params.stackByteOrder v]

/-- `StackRead(k)`. -/
def State.stackRead (s : State) (k : Nat) : Word :=
  entryWord s.params.stackByteOrder (s.byte (stackEntry k)) (s.byte (stackEntry k + 1))

/-! ## Faults and draws (R14)

The hardware takes no exception (R210, R215) and has no return from one (R216): the one shared
operation is `raise`, which ends the step with the fault's recorded values and no change of state.
The sticky mark is written by `State.mark` (log 7). -/

/-- `raise Fault(code)`: the step ends without a next state. -/
def raise (f : Fault) : Result := .fault f

/-- The state after a step that raised `f`: the state before it, plus the mark (R211, R215). -/
def State.mark (s : State) (f : Fault) : State := s.setFault (some f)

/-- The address of the instruction that runs: `pc` is 2 past it (R24, R212, log 8). -/
def State.instrAddr (s : State) : Word := s.pc - 2

/-- The lowest address above 0xFFF among the `count` addresses from `base`, if there is one (R56, R212). -/
def rangeError (base count : Nat) : Option Nat :=
  if 0 < count ∧ Config.memSize < base + count then some (max base Config.memSize) else none

/-- The range test of R56, made before any access of instruction `i`. -/
def checkRange (i : Instr) (s : State) (base count : Nat) (k : Result) : Result :=
  match rangeError base count with
  | some a => raise (.memRange s.instrAddr (encode i) a)
  | none => k

/-- What an ambiguous word `w` does (R89): nothing, or a refusal, by policy. -/
def ambiguousWord (w : Word) (s : State) : Result :=
  match s.params.ambiguousWordPolicy with
  | .noop => .next s
  | .refuse => .refused (.ambiguousWord s.instrAddr w)

/-- `draw8()` (R14, R131): the byte of this draw, a free value (log 4). -/
def State.drawnByte (s : State) : Byte := Config.draw s.draws

end Sys2Proof.Machine
end

