-- ==== Sys2Proof/Machine/Operands.lean ====
section
/-! DEFINITION. The operand forms: immediates (30_encoding.md R83), the I-relative address (42_index.md R152), keys, shift source, register blocks, decimal digits. -/

namespace Sys2Proof.Machine

/-- `zext_16(NNN)` (R83): an absolute byte address. -/
def addrOperand (nnn : Addr12) : Word := nnn.setWidth 16

/-- The effective address of the first byte of an I-relative access (R152), an exact integer. -/
def State.effAddr (s : State) : Nat := s.i.toNat

/-- A register's value widened to the width of `pc` and `I`. -/
def wide (b : Byte) : Word := b.setWidth 16

/-- The register that SHR and SHL shift (R128, R130). -/
def State.shiftOperand (s : State) (x y : Reg) : Byte :=
  match s.params.shiftSource with
  | .vx => s.readV x
  | .vy => s.readV y

/-- The key a register's full 8-bit value names, if it names one (R183). -/
def keyOperand (b : Byte) : Option (Fin 16) :=
  if h : b.toNat < 16 then some ⟨b.toNat, h⟩ else none

/-- The address of a digit's glyph (R52, R151): `5 * V[X]`, not masked (log 15). -/
def glyphAddr (b : Byte) : Word := BitVec.ofNat 16 (5 * b.toNat)

/-- The column where a sprite starts (R164). -/
def spriteX (b : Byte) : Nat := b.toNat % Config.fbWidth

/-- The row where a sprite starts (R164). -/
def spriteY (b : Byte) : Nat := b.toNat % Config.fbHeight

/-- The bytes V0 to VX, in order (R195). -/
def State.regBlock (s : State) (x : Reg) : List Byte :=
  (List.range (x.val + 1)).map (fun k => s.readV (Fin.ofNat 16 k))

/-- The registers after V0 to VX are loaded from `a` upwards (R196). -/
def State.loadBlock (s : State) (x : Reg) (a : Nat) : Vector Byte 16 :=
  Vector.ofFn (fun r : Fin 16 => if r ≤ x then s.byte (a + r.val) else s.readV r)

/-- The three bytes FX33 stores (R194), in ascending order of address. -/
def bcdBytes (mode : BcdMode) (b : Byte) : List Byte :=
  match mode with
  | .decimal =>
    [BitVec.ofNat 8 (b.toNat / 100), BitVec.ofNat 8 (b.toNat / 10 % 10), BitVec.ofNat 8 (b.toNat % 10)]
  | .referenceShift =>
    [BitVec.ofNat 8 (b.toNat >>> 8), BitVec.ofNat 8 (b.toNat >>> 4), BitVec.ofNat 8 (b.toNat >>> 0)]

end Sys2Proof.Machine
end

