-- ==== Sys2Proof/Machine/Flags.lean ====
section
/-! DEFINITION. The flag computations of VF (10_state.md R22, 41_alu.md R126 to R130, R141). The core has no other flag (R37). -/

namespace Sys2Proof.Machine

/-- A flag's byte: 1 or 0. -/
def flagByte (c : Bool) : Byte := if c then 1 else 0

/-- Carry (R126): 1 iff the unsigned sum exceeds 255. -/
def carryFlag (a b : Byte) : Byte := flagByte (decide (255 < a.toNat + b.toNat))

/-- Not-borrow (R127, R129): 0 iff the minuend is less than the subtrahend. -/
def noBorrowFlag (minuend subtrahend : Byte) : Byte :=
  flagByte (!decide (minuend.toNat < subtrahend.toNat))

/-- The bit a right shift by one shifts out (R128). -/
def lowBitFlag (a : Byte) : Byte := flagByte (a.getLsbD 0)

/-- The bit a left shift by one shifts out (R130). -/
def highBitFlag (a : Byte) : Byte := flagByte (a.getLsbD 7)

/-- What VF holds when it is the destination of a flag-writing instruction (R141). -/
def vfResult (o : VfWriteOrder) (res flag : Byte) : Byte :=
  match o with
  | .flagLast => flag
  | .resultLast => res

/-- `WriteResultFlag(X, res, flag)` (R141). -/
def State.writeResultFlag (s : State) (x : Reg) (res flag : Byte) : State :=
  if x = VF then s.writeV VF (vfResult s.params.vfWriteOrder res flag)
  else (s.writeV x res).writeV VF flag

end Sys2Proof.Machine
end

