-- ==== Sys2Proof/Machine/Alu.lean ====
section
/-! DEFINITION. The meanings of the data-movement and arithmetic instructions (41_alu.md). Byte arithmetic is modulo 256 (R140). -/

namespace Sys2Proof.Machine

/-- R120: `V[X] <- KK`. -/
def execLdByte (x : Reg) (kk : Byte) (s : State) : Result := .next (s.writeV x kk)

/-- R121: `V[X] <- (V[X] + KK) mod 256`, no flag. -/
def execAddByte (x : Reg) (kk : Byte) (s : State) : Result := .next (s.writeV x (s.readV x + kk))

/-- R122: `V[X] <- V[Y]`. -/
def execLdReg (x y : Reg) (s : State) : Result := .next (s.writeV x (s.readV y))

/-- R123: `V[X] <- V[X] | V[Y]`, no flag. -/
def execOrReg (x y : Reg) (s : State) : Result := .next (s.writeV x (s.readV x ||| s.readV y))

/-- R124: `V[X] <- V[X] & V[Y]`, no flag. -/
def execAndReg (x y : Reg) (s : State) : Result := .next (s.writeV x (s.readV x &&& s.readV y))

/-- R125: `V[X] <- V[X] ^ V[Y]`, no flag. -/
def execXorReg (x y : Reg) (s : State) : Result := .next (s.writeV x (s.readV x ^^^ s.readV y))

/-- R126: the sum, and the carry. -/
def execAddReg (x y : Reg) (s : State) : Result :=
  .next (s.writeResultFlag x (s.readV x + s.readV y) (carryFlag (s.readV x) (s.readV y)))

/-- R127: `Vx - Vy`, and not-borrow. -/
def execSub (x y : Reg) (s : State) : Result :=
  .next (s.writeResultFlag x (s.readV x - s.readV y) (noBorrowFlag (s.readV x) (s.readV y)))

/-- R128: shift right by one, and the bit shifted out. -/
def execShr (x y : Reg) (s : State) : Result :=
  .next (s.writeResultFlag x (s.shiftOperand x y >>> 1) (lowBitFlag (s.shiftOperand x y)))

/-- R129: `Vy - Vx`, and not-borrow. -/
def execSubn (x y : Reg) (s : State) : Result :=
  .next (s.writeResultFlag x (s.readV y - s.readV x) (noBorrowFlag (s.readV y) (s.readV x)))

/-- R130: shift left by one, and the bit shifted out. -/
def execShl (x y : Reg) (s : State) : Result :=
  .next (s.writeResultFlag x (s.shiftOperand x y <<< 1) (highBitFlag (s.shiftOperand x y)))

/-- R131 with the draw as an argument: `V[X] <- r & KK`. -/
def State.writeRandom (s : State) (x : Reg) (kk r : Byte) : State := s.writeV x (r &&& kk)

/-- R131: the draw is free, and the counter moves on so that the next draw is another (log 4). -/
def execRnd (x : Reg) (kk : Byte) (s : State) : Result :=
  .next ((s.writeRandom x kk s.drawnByte).setDraws (s.draws + 1))

end Sys2Proof.Machine
end

