-- ==== Sys2Proof/Machine/Control.lean ====
section
/-! DEFINITION. The meanings of the control-flow instructions (40_control_flow.md). `pc` is already 2 past the instruction (R24, R90). -/

namespace Sys2Proof.Machine

/-- R100: nothing, or a refusal under REFUSE. -/
def execSys (nnn : Addr12) (s : State) : Result := ambiguousWord (encode (.sys nnn)) s

/-- R101: `pc <- NNN`. -/
def execJp (nnn : Addr12) (s : State) : Result := .next (s.setPc (addrOperand nnn))

/-- R102: push the return address `pc`, then jump. -/
def execCall (nnn : Addr12) (s : State) : Result :=
  if Config.stackDepth ≤ s.sp.toNat then raise (.stackOverflow s.instrAddr (encode (.call nnn)))
  else .next (((s.stackWrite s.sp.toNat s.pc).setSp (s.sp + 1)).setPc (addrOperand nnn))

/-- R103: pop into `pc`. The range test never fails with `sp ≤ 16` (log 14). -/
def execRet (s : State) : Result :=
  if s.sp = 0 then raise (.stackUnderflow s.instrAddr (encode .ret))
  else checkRange .ret s (stackEntry (s.sp.toNat - 1)) 2
    (.next ((s.setSp (s.sp - 1)).setPc (s.stackRead (s.sp.toNat - 1))))

/-- R104. -/
def execSeByte (x : Reg) (kk : Byte) (s : State) : Result := .next (s.skipIf (s.readV x == kk))

/-- R105. -/
def execSneByte (x : Reg) (kk : Byte) (s : State) : Result := .next (s.skipIf (s.readV x != kk))

/-- R106. -/
def execSeReg (x y : Reg) (s : State) : Result := .next (s.skipIf (s.readV x == s.readV y))

/-- R107. -/
def execSneReg (x y : Reg) (s : State) : Result := .next (s.skipIf (s.readV x != s.readV y))

/-- R108: `pc <- NNN + V[0]`, a 16-bit value, not masked (log 16). -/
def execJpV0 (nnn : Addr12) (s : State) : Result :=
  .next (s.setPc (addrOperand nnn + wide (s.readV 0)))

end Sys2Proof.Machine
end

