-- ==== Sys2Proof/Machine/Graphics.lean ====
section
/-! DEFINITION. The pixel engine and the meanings of CLS and DRW (43_graphics.md). -/

namespace Sys2Proof.Machine

/-- `byte_addr` of pixel (x, y) (R160). -/
def pixelAddr (x y : Nat) : Nat := Config.fbBase + (Config.fbWidth * y + x) / 8

/-- `bit` of pixel (x, y) (R160): the most significant bit is the leftmost pixel. -/
def pixelBit (x y : Nat) : Nat := 7 - (Config.fbWidth * y + x) % 8

/-- `Pixel(x, y)` (R160). -/
def Memory.pixel (m : Memory) (x y : Nat) : Bool := (m.read (pixelAddr x y)).getLsbD (pixelBit x y)

/-- A byte with bit `k` set or cleared, and no other bit changed (R161). -/
def setBit (b : Byte) (k : Nat) (on : Bool) : Byte :=
  if on then b ||| ((1 : Byte) <<< k) else b &&& ~~~((1 : Byte) <<< k)

/-- `SetPixel(x, y, on)` (R161). -/
def Memory.setPixel (m : Memory) (x y : Nat) (on : Bool) : Memory :=
  m.write (pixelAddr x y) (setBit (m.read (pixelAddr x y)) (pixelBit x y) on)

/-- What a draw carries from one pixel to the next: memory and `collided`. -/
abbrev Canvas := Memory × Bool

/-- Column `c` of a sprite row at (x0, y) (R164): clipped at the right edge, XOR with a set bit. -/
def drawColumn (row : Byte) (x0 y : Nat) (d : Canvas) (c : Nat) : Canvas :=
  if Config.fbWidth ≤ x0 + c then d
  else if row.getLsbD (7 - c) then
    (d.1.setPixel (x0 + c) y (!d.1.pixel (x0 + c) y), d.2 || d.1.pixel (x0 + c) y)
  else d

/-- The eight columns of a sprite row, left to right (R164). -/
def drawRow (row : Byte) (x0 y : Nat) (d : Canvas) : Canvas :=
  (List.range 8).foldl (drawColumn row x0 y) d

/-- Row `r` of the sprite at `base` (R164): read when it is reached (R165), clipped at the bottom edge. -/
def drawSpriteRow (base x0 y0 : Nat) (d : Canvas) (r : Nat) : Canvas :=
  if Config.fbHeight ≤ y0 + r then d else drawRow (d.1.read (base + r)) x0 (y0 + r) d

/-- The `n` rows of the sprite at `base`, in ascending order (R164). -/
def drawSprite (m : Memory) (base x0 y0 n : Nat) : Canvas :=
  (List.range n).foldl (drawSpriteRow base x0 y0) (m, false)

/-- The framebuffer's bytes cleared (R163). -/
def Memory.clearDisplay (m : Memory) : Memory :=
  m.writeList Config.fbBase (List.replicate Config.fbSize 0)

/-- R163: only the framebuffer changes. -/
def execCls (s : State) : Result := .next (s.setMem s.mem.clearDisplay)

/-- What DRW draws in state `s`: the coordinates are read before VF is written (R164). -/
def State.drawn (s : State) (x y : Reg) (n : Fin 16) : Canvas :=
  drawSprite s.mem s.effAddr (spriteX (s.readV x)) (spriteY (s.readV y)) n.val

/-- R164: the range test covers clipped rows, and VF is written last. -/
def execDrw (x y : Reg) (n : Fin 16) (s : State) : Result :=
  checkRange (.drw x y n) s s.effAddr n.val
    (.next ((s.setMem (s.drawn x y n).1).writeV VF (flagByte (s.drawn x y n).2)))

end Sys2Proof.Machine
end

