-- ==== Sys2Proof/Machine/Index.lean ====
section
/-! DEFINITION. The meanings of the index-register instructions (42_index.md). -/

namespace Sys2Proof.Machine

/-- R150: `I <- zext_16(NNN)`. -/
def execLdI (nnn : Addr12) (s : State) : Result := .next (s.setI (addrOperand nnn))

/-- R151: `I <- 5 * V[X]`. -/
def execLdFVx (x : Reg) (s : State) : Result := .next (s.setI (glyphAddr (s.readV x)))

end Sys2Proof.Machine
end

