-- ==== Sys2Proof/Machine/Input.lean ====
section
/-! DEFINITION. The meanings of the input instructions (44_input.md). -/

namespace Sys2Proof.Machine

/-- The key test that SKP and SKNP share (R183, R184): no such key is a fault, and a key found
pressed is consumed; the word is skipped when the key's state is `skipWhen`. -/
def keySkip (i : Instr) (x : Reg) (skipWhen : Bool) (s : State) : Result :=
  match keyOperand (s.readV x) with
  | none => raise (.keyRange s.instrAddr (encode i) (s.readV x))
  | some k => .next ((s.skipIf (s.key k == skipWhen)).setKey k false)

/-- R180: skip if the key is pressed. -/
def execSkp (x : Reg) (s : State) : Result := keySkip (.skp x) x true s

/-- R181: skip if the key is not pressed. -/
def execSknp (x : Reg) (s : State) : Result := keySkip (.sknp x) x false s

/-- R182: set the input-wait latch; the host writes V[X] when it resolves the wait (R233). -/
def execLdVxK (x : Reg) (s : State) : Result := .next (s.setWait { flag := true, reg := x })

end Sys2Proof.Machine
end

