-- ==== Sys2Proof/Machine/Misc.lean ====
section
/-! DEFINITION. The meanings of the timer, index-arithmetic, BCD and block-transfer instructions (45_timers_misc.md). -/

namespace Sys2Proof.Machine

/-- R190: `V[X] <- DT`. -/
def execLdVxDt (x : Reg) (s : State) : Result := .next (s.writeV x s.dt)

/-- R191: `DT <- V[X]`. -/
def execLdDtVx (x : Reg) (s : State) : Result := .next (s.setDt (s.readV x))

/-- R192: `ST <- V[X]`. -/
def execLdStVx (x : Reg) (s : State) : Result := .next (s.setSt (s.readV x))

/-- R193: `I <- (I + V[X]) mod 2^16`, no flag. -/
def execAddIVx (x : Reg) (s : State) : Result := .next (s.setI (s.i + wide (s.readV x)))

/-- R194: the three digits of V[X] at I, I+1, I+2. -/
def execLdBVx (x : Reg) (s : State) : Result :=
  checkRange (.ldBVx x) s s.effAddr 3
    (.next (s.store s.effAddr (bcdBytes s.params.bcdMode (s.readV x))))

/-- `I` after a block of registers V0 to VX was transferred (R195, R196). -/
def State.nextI (s : State) (x : Reg) : Word := s.i + BitVec.ofNat 16 (x.val + 1)

/-- R195: bulk-store V0 to VX, then advance I past the block. -/
def execStoreRegs (x : Reg) (s : State) : Result :=
  checkRange (.storeRegs x) s s.effAddr (x.val + 1)
    (.next ((s.store s.effAddr (s.regBlock x)).setI (s.nextI x)))

/-- R196: bulk-load V0 to VX, then advance I past the block. -/
def execLoadRegs (x : Reg) (s : State) : Result :=
  checkRange (.loadRegs x) s s.effAddr (x.val + 1)
    (.next ((s.setRegs (s.loadBlock x s.effAddr)).setI (s.nextI x)))

end Sys2Proof.Machine
end

