-- ==== Sys2Proof/Machine/Fetch.lean ====
section
/-! DEFINITION. What a step does before an instruction executes (30_encoding.md R90 to R92, R214), the words that are no instruction (R88, R89), the step's report (R91), and placing a word where the next step fetches it. -/

namespace Sys2Proof.Machine

/-- How a step begins (R90, R214): one constructor per test that can end it, and the fetch. -/
inductive StepStart where
  /-- The state carries the sticky mark `f`: no move (R211). -/
  | marked (f : Fault)
  /-- `Wait.flag` is set: BLOCKED. -/
  | blocked
  /-- `pc` is at or past the program's end: ENDED. -/
  | ended
  /-- The fetch raises `f` (R92). -/
  | badFetch (f : Fault)
  /-- The word `w` is fetched, and `pc` is 2 past it in `t`. -/
  | fetched (w : Word) (t : State)
  deriving DecidableEq, Repr

/-- The state after the fetch: `pc` advanced by 2 (R24). -/
def State.afterFetch (s : State) : State := s.setPc (s.pc + 2)

/-- The word at `pc` (R57). -/
def State.fetchWord (s : State) : Word := s.mem.readWord s.pc.toNat

/-- The tests of a step, in the order of R214. -/
def stepStart (s : State) : StepStart :=
  match s.fault with
  | some f => .marked f
  | none =>
    if s.wait.flag then .blocked
    else if s.progEnd ≤ s.pc.toNat then .ended
    else if s.pc.toNat % 2 = 1 then .badFetch (.pcMisaligned s.pc)
    else if s.pc.toNat < Config.progBase then .badFetch (.pcRange s.pc)
    else .fetched s.fetchWord s.afterFetch

/-- R88: an unrecognised word changes nothing more. -/
def execUnrecognised (s : State) : Result := .next s

/-- R89: an ambiguous word that is no SYS word. -/
def execAmbiguous (w : Word) (s : State) : Result := ambiguousWord w s

/-- The three reports of a step (R91). -/
inductive Report where
  | cont
  | blocked
  | ended
  deriving DecidableEq, Repr

/-- The report of the step that starts in `s`, decided at its start (R91, R93, log 9). It says nothing
of a step that has no next state. -/
def report (s : State) : Report :=
  if s.wait.flag then .blocked else if s.progEnd ≤ s.pc.toNat then .ended else .cont

/-- The least L under which the word at `pc` lies inside the program, where there is one. -/
def State.lenWithPc (s : State) : Fin (Config.progCap + 1) :=
  if h : s.pc.toNat + 2 - Config.progBase ≤ Config.progCap then
    ⟨max s.progLen.val (s.pc.toNat + 2 - Config.progBase), by omega⟩
  else s.progLen

/-- The word `w` where the next step fetches: its bytes at `pc`, L long enough, the latch and the
fault mark clear (log 23). -/
def State.placeWord (s : State) (w : Word) : State :=
  (((s.store s.pc.toNat [highByte w, lowByte w]).setProgLen s.lenWithPc).setWait
    { flag := false, reg := s.wait.reg }).setFault none

/-- The word the host's bits stand for: those above `nbits` are 0. -/
def tableWord (nbits w : Nat) : Word := BitVec.ofNat 16 (w % 2 ^ nbits)

end Sys2Proof.Machine
end

