-- ==== Sys2Proof/Machine/Step.lean ====
section
/-! DEFINITION. The step (30_encoding.md R90), and the host's way to place an instruction. -/

namespace Sys2Proof.Machine

/-- What the fetched word does in the state after the fetch (R90). -/
def execDecoded (d : Decoded) (w : Word) (t : State) : Host.Outcome State Fault Refusal :=
  match d with
  | .instr i => exec i t
  | .unrecognised => execUnrecognised t
  | .ambiguous => execAmbiguous w t

/-- The step (R90). BLOCKED and ENDED change nothing (R91); their report is `report` (log 9). A marked
state has no move: the step answers its fault again (R211, log 7). -/
def step (s : State) : Host.Outcome State Fault Refusal :=
  match stepStart s with
  | .marked f => .fault f
  | .blocked => .next s
  | .ended => .next s
  | .badFetch f => .fault f
  | .fetched w t => execDecoded (decode w) w t

/-- `s` with the word `w` stored where the next step fetches it (log 6, log 23). -/
def State.withFetchWord (s : State) (nbits w : Nat) : State := s.placeWord (tableWord nbits w)

end Sys2Proof.Machine
end

