-- ==== Sys2Proof/Machine/Moves.lean ====
section
/-! DEFINITION. Construction (70_reset_and_hazards.md R240, R242) and the moves of the host (60_exceptions.md R230 to R236), with the step as the core's move. -/

namespace Sys2Proof.Machine

/-- Why construction fails (R242). -/
inductive ConstructError where
  /-- E_OUT_OF_MEMORY: the image is longer than the program region. -/
  | outOfMemory
  deriving DecidableEq, Repr

/-- Memory after construction (R240): FONT at 0x000, the image at 0x200, 0x00 elsewhere. -/
def constructMemory (font : Vector Byte Config.fontSize) (image : List Byte) : Memory :=
  (Memory.writeList [] 0 font.toList).writeList Config.progBase image

/-- `construct(image, L)` (R240, R242), L the length of `image`. -/
def construct (font : Vector Byte Config.fontSize) (params : Params) (image : List Byte) :
    Except ConstructError State :=
  if h : image.length ≤ Config.progCap then
    .ok { mem := constructMemory font image
          v := Vector.replicate 16 0
          i := 0
          pc := 0x200
          sp := 0
          dt := 0
          st := 0
          wait := { flag := false, reg := 0 }
          keys := Vector.replicate 16 false
          progLen := ⟨image.length, by omega⟩
          fault := none
          params := params
          draws := 0 }
  else .error .outOfMemory

/-- A timer's countdown (R236): a timer at 0 stays at 0. -/
def countDown (b : Byte) : Byte := if 0 < b.toNat then b - 1 else b

/-- `timer_tick()` (R236). -/
def State.timerTick (s : State) : State := (s.setDt (countDown s.dt)).setSt (countDown s.st)

/-- `set_key(k, b)` (R232). -/
def hostSetKey (k : Nat) (b : Bool) (s : State) : Result :=
  if h : k < 16 then .next (s.setKey ⟨k, h⟩ b) else .refused .hostPrecondition

/-- `resolve_wait(k)` (R233). -/
def hostResolveWait (k : Nat) (s : State) : Result :=
  if s.wait.flag ∧ k < 16 then
    .next ((s.writeV s.wait.reg (BitVec.ofNat 8 k)).setWait { flag := false, reg := s.wait.reg })
  else .refused .hostPrecondition

/-- `read_pixel(x, y)` (R234): the pixel, or nothing outside the display. -/
def hostReadPixel (x y : Nat) (s : State) : Option Bool :=
  if x < Config.fbWidth ∧ y < Config.fbHeight then some (s.mem.pixel x y) else none

/-- The moves that run the machine (R19, R230). -/
inductive Move where
  | step
  | setKey (k : Nat) (b : Bool)
  | resolveWait (k : Nat)
  | timerTick
  | readPixel (x y : Nat)
  deriving DecidableEq, Repr

/-- What a move returns to the host (R230). -/
inductive Reply where
  | report (r : Report)
  | nothing
  | pixel (b : Bool)
  deriving DecidableEq, Repr

/-- What becomes of a move (R211, R213). -/
inductive MoveResult where
  /-- The move is made. -/
  | done (s : State) (r : Reply)
  /-- The step raised a fault: `s` is the state before it, with the mark. -/
  | faulted (s : State)
  /-- The state carries the mark: no agent has a move. -/
  | noMove
  /-- The spec gives the move no meaning. -/
  | refused (r : Refusal)
  deriving DecidableEq, Repr

/-- A result of the step or of a host move, made from `s`, as the host sees it. -/
def moveResult (s : State) (r : Reply) : Result → MoveResult
  | .next t => .done t r
  | .fault f => .faulted (s.mark f)
  | .refused f => .refused f

/-- A move in a state without the mark. -/
def enabledMove (m : Move) (s : State) : MoveResult :=
  match m with
  | .step => moveResult s (.report (report s)) (step s)
  | .setKey k b => moveResult s .nothing (hostSetKey k b s)
  | .resolveWait k => moveResult s .nothing (hostResolveWait k s)
  | .timerTick => .done s.timerTick .nothing
  | .readPixel x y =>
    match hostReadPixel x y s with
    | some b => .done s (.pixel b)
    | none => .refused .hostPrecondition

/-- A move of either agent (R230): in a marked state there is none (R211, decision D36). -/
def move (m : Move) (s : State) : MoveResult :=
  match s.fault with
  | some _ => .noMove
  | none => enabledMove m s

/-- A schedule (R231): moves made one after another, up to the first that is not made. A fault keeps its
marked state, in which the moves that follow are none. -/
def runMoves : List Move → State → MoveResult
  | [], s => .done s .nothing
  | m :: ms, s =>
    match move m s with
    | .done t _ => runMoves ms t
    | .faulted t => .faulted t
    | .noMove => .noMove
    | .refused r => .refused r

end Sys2Proof.Machine
end

