-- ==== Sys2Proof/Safety.lean ====
section
/-! DEFINITION. The terms that claims use: the invariant of every reachable state, the end of a run (R256), and frames. -/

namespace Sys2Proof.Machine

/-- The invariant of every reachable state: memory is canonical, and `sp` is 0 to 16 (R29). Every
other bound of R38 is in the types. -/
def State.Inv (s : State) : Prop := s.mem.wf ∧ s.sp.toNat ≤ Config.stackDepth

/-- A run ends here (R256): the next step reports ENDED. -/
def State.Ended (s : State) : Prop :=
  s.wait.flag = false ∧ s.progEnd ≤ s.pc.toNat ∧ s.fault = none

/-- A state whose next step fetches (R90, R92). -/
def State.Fetches (s : State) : Prop :=
  s.fault = none ∧ s.wait.flag = false ∧ s.pc.toNat < s.progEnd ∧
    s.pc.toNat % 2 = 0 ∧ Config.progBase ≤ s.pc.toNat

/-- Every general register but those in `dst` is as it was. -/
def SameRegsExcept (dst : List Reg) (s t : State) : Prop := ∀ r, r ∉ dst → t.readV r = s.readV r

/-- Every byte of memory outside the `n` bytes from `a` reads as it did. -/
def SameBytesOutside (a n : Nat) (s t : State) : Prop :=
  ∀ b, ¬ (a ≤ b ∧ b < a + n) → t.byte b = s.byte b

/-- Every byte of memory reads as it did. -/
def SameBytes (s t : State) : Prop := ∀ b, t.byte b = s.byte b

/-- Every special register is as it was, `pc` included: `I`, `sp`, the timers, the latch, the keys, `L`,
the fault mark, and the model's own fields. -/
def SameSpecial (s t : State) : Prop :=
  t.i = s.i ∧ t.pc = s.pc ∧ t.sp = s.sp ∧ t.dt = s.dt ∧ t.st = s.st ∧ t.wait = s.wait ∧
    t.keys = s.keys ∧ t.progLen = s.progLen ∧ t.fault = s.fault ∧ t.params = s.params ∧
    t.draws = s.draws

/-- A step that writes no register outside `dst`, no memory and no special register. -/
def WritesOnlyRegs (dst : List Reg) (s t : State) : Prop :=
  SameRegsExcept dst s t ∧ SameBytes s t ∧ SameSpecial s t

/-- The result and the flag of a flag-writing instruction with destination `x` (R141), under either
value of VF_WRITE_ORDER. -/
def ResultAndFlag (s t : State) (x : Reg) (res flag : Nat) : Prop :=
  (x ≠ VF → (t.readV x).toNat = res ∧ (t.readV VF).toNat = flag) ∧
  (x = VF → s.params.vfWriteOrder = .flagLast → (t.readV VF).toNat = flag) ∧
  (x = VF → s.params.vfWriteOrder = .resultLast → (t.readV VF).toNat = res)

/-- Whether a sprite of `n` rows drawn in `s` has a set bit at pixel (u, v) (R164): row `v - y0`, column
`u - x0` of the bytes at `I`, the coordinates reduced by the display's size, nothing wrapped. -/
def State.spriteBit (s : State) (x y : Reg) (n u v : Nat) : Bool :=
  decide ((s.readV x).toNat % 64 ≤ u ∧ u < (s.readV x).toNat % 64 + 8 ∧
    (s.readV y).toNat % 32 ≤ v ∧ v < (s.readV y).toNat % 32 + n) &&
  (s.byte (s.i.toNat + (v - (s.readV y).toNat % 32))).getLsbD (7 - (u - (s.readV x).toNat % 64))

/-- The value of `pc` after a step that fetched `d` at `s.pc` and went on (the table of R26,
with what CALL pushes). -/
def PcAfter (d : Decoded) (s t : State) : Prop :=
  match d with
  | .instr (.jp nnn) => t.pc.toNat = nnn.toNat
  | .instr (.call nnn) => t.pc.toNat = nnn.toNat ∧ t.stackRead s.sp.toNat = s.pc + 2
  | .instr .ret => t.pc = s.stackRead (s.sp.toNat - 1)
  | .instr (.jpV0 nnn) => t.pc.toNat = nnn.toNat + (s.readV 0).toNat
  | .instr (.seByte x kk) => t.pc = if s.readV x = kk then s.pc + 4 else s.pc + 2
  | .instr (.sneByte x kk) => t.pc = if s.readV x = kk then s.pc + 2 else s.pc + 4
  | .instr (.seReg x y) => t.pc = if s.readV x = s.readV y then s.pc + 4 else s.pc + 2
  | .instr (.sneReg x y) => t.pc = if s.readV x = s.readV y then s.pc + 2 else s.pc + 4
  | .instr (.skp x) => ∃ k : Fin 16, k.val = (s.readV x).toNat ∧
      t.pc = if s.key k then s.pc + 4 else s.pc + 2
  | .instr (.sknp x) => ∃ k : Fin 16, k.val = (s.readV x).toNat ∧
      t.pc = if s.key k then s.pc + 2 else s.pc + 4
  | _ => t.pc = s.pc + 2

/-- The bytes of memory that instruction `i`, run in `s`, may store to (R60): the pushed entry, the
framebuffer, the three digits, the register block; none for any other instruction. -/
def StoresTo (i : Instr) (s : State) (a : Nat) : Prop :=
  match i with
  | .call _ => stackEntry s.sp.toNat ≤ a ∧ a < stackEntry s.sp.toNat + 2
  | .cls => 0xF00 ≤ a ∧ a ≤ 0xFFF
  | .drw _ _ _ => 0xF00 ≤ a ∧ a ≤ 0xFFF
  | .ldBVx _ => s.effAddr ≤ a ∧ a < s.effAddr + 3
  | .storeRegs x => s.effAddr ≤ a ∧ a < s.effAddr + (x.val + 1)
  | _ => False

/-- The registers that instruction `i` may write (R22 and the rules of 40 to 45): its destination, VF
where it writes the flag, the block of a bulk load. -/
def WritesReg (i : Instr) (r : Reg) : Prop :=
  match i with
  | .ldByte x _ => r = x
  | .addByte x _ => r = x
  | .ldReg x _ => r = x
  | .orReg x _ => r = x
  | .andReg x _ => r = x
  | .xorReg x _ => r = x
  | .addReg x _ => r = x ∨ r = VF
  | .sub x _ => r = x ∨ r = VF
  | .shr x _ => r = x ∨ r = VF
  | .subn x _ => r = x ∨ r = VF
  | .shl x _ => r = x ∨ r = VF
  | .rnd x _ => r = x
  | .drw _ _ _ => r = VF
  | .ldVxDt x => r = x
  | .loadRegs x => r ≤ x
  | _ => False

end Sys2Proof.Machine
end

