-- ==== Sys2Proof/Certificates/Slice0/Obligations.lean ====
section
/-! DEFINITION. The statements for the provers, each with the rule of spec/ it formalises. "D<n>" is a decision of 92_eei_decisions.md, the spec's own choice. In `exec i s`, `s.pc` is already 2 past the instruction (R24). -/

open Sys2Proof Sys2Proof.Machine

/-! ## Encoding and decoding -/

/-- Decoding the encoding of a well-formed instruction gives it back, whatever its operands (R84, R97;
the encodings rest on D1). -/
def Obligations.DecodeOfEncodeIsIdentity : Prop :=
  ∀ i : Instr, i.wellFormed = true → decode (encode i) = .instr i

/-- A word that decodes to an instruction is that instruction's encoding, and the instruction is
well-formed: no word stands for two instructions (R94; D1, D2). -/
def Obligations.DecodedWordIsItsEncoding : Prop :=
  ∀ (w : Word) (i : Instr), decode w = .instr i → i.wellFormed = true ∧ encode i = w

/-- The words that are no instruction are exactly those of R87 (unrecognised) and of R86 and R89
(ambiguous), SYS words apart, which decode to SYS (D1, D2). -/
def Obligations.DecodeRejectsExactlyTheListedWords : Prop :=
  ∀ w : Word,
    (decode w = .unrecognised ↔ w.toNat / 0x1000 = 8 ∧
      (8 ≤ w.toNat % 16 ∧ w.toNat % 16 ≤ 13 ∨ w.toNat % 16 = 15)) ∧
    (decode w = .ambiguous ↔
      ((w.toNat / 0x1000 = 5 ∨ w.toNat / 0x1000 = 9) ∧ w.toNat % 16 ≠ 0) ∨
      (w.toNat / 0x1000 = 14 ∧ w.toNat % 256 ∉ [0x9E, 0xA1]) ∨
      (w.toNat / 0x1000 = 15 ∧
        w.toNat % 256 ∉ [0x07, 0x0A, 0x15, 0x18, 0x1E, 0x29, 0x33, 0x55, 0x65]))

/-- Words written out from the encodings decode to the instructions they stand for (R84, R97; D1). -/
def Obligations.SampleWordsDecode : Prop :=
  decode 0b0000000011100000 = .instr .cls ∧
  decode 0b0010001100000000 = .instr (.call 0x300) ∧
  decode 0b1000001101000100 = .instr (.addReg 3 4) ∧
  decode 0b1010001011110000 = .instr (.ldI 0x2F0) ∧
  decode 0b1101000000010101 = .instr (.drw 0 1 5) ∧
  decode 0b1110001010011110 = .instr (.skp 2) ∧
  decode 0b1111001001100101 = .instr (.loadRegs 2)

/-! ## The step -/

/-- A step at a fetchable `pc` whose two bytes, high byte first, decode to an instruction is that
instruction executed with `pc` advanced by 2 (R90, R57, R24). -/
def Obligations.StepRunsDecodedInstruction : Prop :=
  ∀ (s : State) (i : Instr), s.Fetches →
    decode (wordOfBytes (s.byte s.pc.toNat) (s.byte (s.pc.toNat + 1))) = .instr i →
    step s = exec i { s with pc := s.pc + 2 }

/-- A fetched word that is no instruction: an unrecognised one changes `pc` alone, by 2, under every policy
(R88); an ambiguous one does so under NOOP and is refused under REFUSE (R89; D2). -/
def Obligations.WordsThatAreNoInstruction : Prop :=
  ∀ s : State, s.Fetches →
    (decode s.fetchWord = .unrecognised → step s = .next { s with pc := s.pc + 2 }) ∧
    (decode s.fetchWord = .ambiguous → s.params.ambiguousWordPolicy = .noop →
      step s = .next { s with pc := s.pc + 2 }) ∧
    (decode s.fetchWord = .ambiguous → s.params.ambiguousWordPolicy = .refuse →
      step s = .refused (.ambiguousWord s.pc s.fetchWord))

/-- The reports BLOCKED, ENDED and CONTINUE, in that order of precedence, and that the first two
change nothing (R91, R93; BLOCKED over ENDED is D19, the time of the report D18; log 9). -/
def Obligations.BlockedAndEndedStepsChangeNothing : Prop :=
  ∀ s : State, s.fault = none →
    (s.wait.flag = true → step s = .next s ∧ report s = .blocked) ∧
    (s.wait.flag = false → 0x200 + s.progLen.val ≤ s.pc.toNat →
      step s = .next s ∧ report s = .ended) ∧
    (s.wait.flag = false → s.pc.toNat < 0x200 + s.progLen.val → report s = .cont)

/-- A fetch at an odd `pc` faults, and one at an even `pc` below 0x200 faults; the recorded value is `pc`
(R92, R212, R214; D9). -/
def Obligations.FetchFaults : Prop :=
  ∀ s : State, s.fault = none → s.wait.flag = false → s.pc.toNat < 0x200 + s.progLen.val →
    (s.pc.toNat % 2 = 1 → step s = .fault (.pcMisaligned s.pc)) ∧
    (s.pc.toNat % 2 = 0 → s.pc.toNat < 0x200 → step s = .fault (.pcRange s.pc))

/-- A step that faults leaves the state as it was but for the mark, and a marked state has no move of
either agent: its step answers the fault again (R211, R215; D28, D36, log 7). -/
def Obligations.FaultMarkIsTheOnlyChangeAndSticks : Prop :=
  (∀ (s : State) (f : Fault), s.fault = none → step s = .fault f →
    move .step s = .faulted { s with fault := some f }) ∧
  (∀ (s : State) (f : Fault) (m : Move), s.fault = some f → move m s = .noMove ∧ step s = .fault f)

/-- How every step changes `pc`: the table of R26, and no change in a step that reports blocked or ended
or that faults. -/
def Obligations.ProgramCounterAfterAStep : Prop :=
  (∀ s t : State, step s = .next t →
    (¬ s.Fetches → t.pc = s.pc) ∧ (s.Fetches → PcAfter (decode s.fetchWord) s t)) ∧
  (∀ s t : State, move .step s = .faulted t → t.pc = s.pc)

/-- The host's placing of a word makes the next step execute it, at every even `pc` of the program
region (the model's own, log 23). -/
def Obligations.PlacedWordRunsNext : Prop :=
  ∀ (s : State) (w : Word), s.pc.toNat % 2 = 0 → 0x200 ≤ s.pc.toNat → s.pc.toNat ≤ 0xE9E →
    step (s.withFetchWord 16 w.toNat) =
      execDecoded (decode w) w { s.withFetchWord 16 w.toNat with pc := s.pc + 2 }

/-! ## Construction and reset -/

/-- Construction with an image that fits gives every field the value of R39. Two clauses are no rule of the
spec but speak of the model's own terms: the parameters are those given (log 1), and the state meets the
invariant, whose memory is canonical (log 22). The draw counter is left out (log 4). -/
def Obligations.ConstructionGivesTheListedState : Prop :=
  ∀ (font : Vector Byte 80) (p : Params) (image : List Byte), image.length ≤ 0xCA0 →
    ∃ s, construct font p image = .ok s ∧
      (∀ (a : Nat) (h : a < 80), s.byte a = font[a]) ∧
      (∀ a, 80 ≤ a → a < 0x200 → s.byte a = 0) ∧
      (∀ (k : Nat) (h : k < image.length), s.byte (0x200 + k) = image[k]) ∧
      (∀ a, 0x200 + image.length ≤ a → a ≤ 0xFFF → s.byte a = 0) ∧
      (∀ r, s.readV r = 0) ∧ s.i = 0 ∧ s.pc = 0x200 ∧ s.sp = 0 ∧ s.dt = 0 ∧ s.st = 0 ∧
      s.wait = { flag := false, reg := 0 } ∧ (∀ k, s.key k = false) ∧
      s.progLen.val = image.length ∧ s.fault = none ∧ s.params = p ∧ s.Inv

/-- Construction fails exactly above the capacity (R242; the form of the error is D27). -/
def Obligations.ConstructionFailsAboveCapacity : Prop :=
  ∀ (font : Vector Byte 80) (p : Params) (image : List Byte),
    construct font p image = .error .outOfMemory ↔ 0xCA0 < image.length

/-- The state after reset is construction with the default FONT and no program (R39, R240; the empty
program and the default FONT are the model's choice, log 5 and log 6). -/
def Obligations.ResetIsConstructionOfNoProgram : Prop :=
  construct Config.font Config.params [] = .ok State.reset

/-- The invariant holds at reset: canonical memory, `sp` at most 16. -/
def Obligations.ResetMeetsInvariant : Prop := State.reset.Inv

/-- Every step keeps the invariant: memory stays canonical and `sp` never leaves 0 to 16 (R29; that the
overflow and underflow fault is D8). -/
def Obligations.StepKeepsInvariant : Prop :=
  ∀ s t : State, s.Inv → step s = .next t → t.Inv

/-- Every schedule of steps and host moves keeps the invariant, one that ends in a fault too (R29, R231;
D8, D22). -/
def Obligations.EverySchedulePreservesInvariant : Prop :=
  ∀ (ms : List Move) (s : State), s.Inv →
    (∀ t r, runMoves ms s = .done t r → t.Inv) ∧ (∀ t, runMoves ms s = .faulted t → t.Inv)

/-! ## Control flow -/

/-- SYS is a no-op under NOOP and refused under REFUSE (R100; D2, D5). -/
def Obligations.SysFollowsPolicy : Prop :=
  ∀ (s : State) (nnn : Addr12),
    (s.params.ambiguousWordPolicy = .noop → exec (.sys nnn) s = .next s) ∧
    (s.params.ambiguousWordPolicy = .refuse →
      exec (.sys nnn) s = .refused (.ambiguousWord (s.pc - 2) (encode (.sys nnn))))

/-- JP sets `pc` to NNN and changes nothing else (R101). -/
def Obligations.JumpSetsPc : Prop :=
  ∀ (s : State) (nnn : Addr12),
    ∃ t, exec (.jp nnn) s = .next t ∧ t.pc.toNat = nnn.toNat ∧ t = { s with pc := t.pc }

/-- JP V0 sets `pc` to the exact sum NNN + V0, unmasked, and changes nothing else (R108; D30). -/
def Obligations.JumpWithOffsetSetsPcToExactSum : Prop :=
  ∀ (s : State) (nnn : Addr12),
    ∃ t, exec (.jpV0 nnn) s = .next t ∧ t.pc.toNat = nnn.toNat + (s.readV 0).toNat ∧
      t = { s with pc := t.pc }

/-- The four register skips add 2 to `pc` exactly when their condition holds and change nothing else (R104
to R107). -/
def Obligations.ConditionalSkips : Prop :=
  ∀ (s : State) (x y : Reg) (kk : Byte),
    exec (.seByte x kk) s = .next { s with pc := if s.readV x = kk then s.pc + 2 else s.pc } ∧
    exec (.sneByte x kk) s = .next { s with pc := if s.readV x ≠ kk then s.pc + 2 else s.pc } ∧
    exec (.seReg x y) s = .next { s with pc := if s.readV x = s.readV y then s.pc + 2 else s.pc } ∧
    exec (.sneReg x y) s = .next { s with pc := if s.readV x ≠ s.readV y then s.pc + 2 else s.pc }

/-- CALL with fewer than 16 entries in use stores the return address in entry `sp`, in either byte
order, increments `sp`, jumps, and changes nothing else; with 16 it faults, recording its address and word
(R102, R54, R212; D6, D7, D8). -/
def Obligations.CallPushesReturnAddressAndJumps : Prop :=
  ∀ (s : State) (nnn : Addr12),
    (s.sp.toNat < 16 → stackEntry s.sp.toNat = 0xEA0 + 2 * s.sp.toNat ∧
      ∃ t, exec (.call nnn) s = .next t ∧ t.pc.toNat = nnn.toNat ∧ t.sp.toNat = s.sp.toNat + 1 ∧
        (s.params.stackByteOrder = .big →
          (t.byte (stackEntry s.sp.toNat)).toNat = s.pc.toNat / 256 ∧
          (t.byte (stackEntry s.sp.toNat + 1)).toNat = s.pc.toNat % 256) ∧
        (s.params.stackByteOrder = .little →
          (t.byte (stackEntry s.sp.toNat)).toNat = s.pc.toNat % 256 ∧
          (t.byte (stackEntry s.sp.toNat + 1)).toNat = s.pc.toNat / 256) ∧
        SameBytesOutside (stackEntry s.sp.toNat) 2 s t ∧
        t = { s with mem := t.mem, sp := t.sp, pc := t.pc }) ∧
    (16 ≤ s.sp.toNat →
      exec (.call nnn) s = .fault (.stackOverflow (s.pc - 2) (encode (.call nnn))))

/-- RET with 1 to 16 entries in use decrements `sp`, sets `pc` to the word in entry `sp - 1`, in either
byte order, and changes nothing else; with none it faults, recording its address and word (R103, R54, R212;
D6, D7, D8). -/
def Obligations.ReturnPopsIntoPc : Prop :=
  ∀ s : State,
    (1 ≤ s.sp.toNat → s.sp.toNat ≤ 16 →
      stackEntry (s.sp.toNat - 1) = 0xEA0 + 2 * (s.sp.toNat - 1) ∧
      ∃ t, exec .ret s = .next t ∧ t.sp.toNat + 1 = s.sp.toNat ∧
        (s.params.stackByteOrder = .big → t.pc.toNat =
          (s.byte (stackEntry (s.sp.toNat - 1))).toNat * 256 +
          (s.byte (stackEntry (s.sp.toNat - 1) + 1)).toNat) ∧
        (s.params.stackByteOrder = .little → t.pc.toNat =
          (s.byte (stackEntry (s.sp.toNat - 1) + 1)).toNat * 256 +
          (s.byte (stackEntry (s.sp.toNat - 1))).toNat) ∧
        t = { s with sp := t.sp, pc := t.pc }) ∧
    (s.sp.toNat = 0 → exec .ret s = .fault (.stackUnderflow (s.pc - 2) (encode .ret)))

/-- The RET that matches a CALL returns to the address after the CALL and restores `sp`, in either byte
order: `u` is any state in which `sp` is as the CALL left it and the entry's bytes were not rewritten
(R110, derived there; D6). -/
def Obligations.ReturnUndoesCall : Prop :=
  ∀ (s t u : State) (nnn : Addr12), exec (.call nnn) s = .next t → u.sp = t.sp →
    u.params = t.params → u.byte (stackEntry s.sp.toNat) = t.byte (stackEntry s.sp.toNat) →
    u.byte (stackEntry s.sp.toNat + 1) = t.byte (stackEntry s.sp.toNat + 1) →
    ∃ v, exec .ret u = .next v ∧ v.pc = s.pc ∧ v.sp = s.sp ∧ SameBytes u v

/-! ## Data movement and arithmetic -/

/-- LD of a byte, of a register and of the delay timer put that value in V[X] and write nothing else (R120,
R122, R190). -/
def Obligations.LoadsCopyIntoVx : Prop :=
  ∀ (s : State) (x y : Reg) (kk : Byte),
    (∃ t, exec (.ldByte x kk) s = .next t ∧ t.readV x = kk ∧ WritesOnlyRegs [x] s t) ∧
    (∃ t, exec (.ldReg x y) s = .next t ∧ t.readV x = s.readV y ∧ WritesOnlyRegs [x] s t) ∧
    (∃ t, exec (.ldVxDt x) s = .next t ∧ t.readV x = s.dt ∧ WritesOnlyRegs [x] s t)

/-- ADD Vx, byte is addition modulo 256 and writes no flag (R121). -/
def Obligations.AddByteWrapsWithoutFlag : Prop :=
  ∀ (s : State) (x : Reg) (kk : Byte),
    ∃ t, exec (.addByte x kk) s = .next t ∧
      (t.readV x).toNat = ((s.readV x).toNat + kk.toNat) % 256 ∧ WritesOnlyRegs [x] s t

/-- OR, AND and XOR bit by bit; VF is written only as the destination (R123 to R125; D15). -/
def Obligations.BitwiseOperations : Prop :=
  ∀ (s : State) (x y : Reg),
    (∃ t, exec (.orReg x y) s = .next t ∧ WritesOnlyRegs [x] s t ∧ ∀ k,
      (t.readV x).getLsbD k = ((s.readV x).getLsbD k || (s.readV y).getLsbD k)) ∧
    (∃ t, exec (.andReg x y) s = .next t ∧ WritesOnlyRegs [x] s t ∧ ∀ k,
      (t.readV x).getLsbD k = ((s.readV x).getLsbD k && (s.readV y).getLsbD k)) ∧
    (∃ t, exec (.xorReg x y) s = .next t ∧ WritesOnlyRegs [x] s t ∧ ∀ k,
      (t.readV x).getLsbD k = xor ((s.readV x).getLsbD k) ((s.readV y).getLsbD k))

/-- ADD Vx, Vy: the sum modulo 256, and VF = 1 iff the sum exceeds 255; with X = F the VF_WRITE_ORDER
decides, for both of its values (R126, R141). -/
def Obligations.AddWritesSumAndCarry : Prop :=
  ∀ (s : State) (x y : Reg),
    ∃ t, exec (.addReg x y) s = .next t ∧
      ResultAndFlag s t x (((s.readV x).toNat + (s.readV y).toNat) % 256)
        (if 255 < (s.readV x).toNat + (s.readV y).toNat then 1 else 0) ∧
      WritesOnlyRegs [x, VF] s t

/-- SUB and SUBN: the difference modulo 256, and VF = 0 iff the minuend is less than the subtrahend;
with X = F the VF_WRITE_ORDER decides (R127, R129, R141). -/
def Obligations.SubtractWritesDifferenceAndNotBorrow : Prop :=
  ∀ (s : State) (x y : Reg),
    (∃ t, exec (.sub x y) s = .next t ∧
      ResultAndFlag s t x (((s.readV x).toNat + 256 - (s.readV y).toNat) % 256)
        (if (s.readV x).toNat < (s.readV y).toNat then 0 else 1) ∧
      WritesOnlyRegs [x, VF] s t) ∧
    (∃ t, exec (.subn x y) s = .next t ∧
      ResultAndFlag s t x (((s.readV y).toNat + 256 - (s.readV x).toNat) % 256)
        (if (s.readV y).toNat < (s.readV x).toNat then 0 else 1) ∧
      WritesOnlyRegs [x, VF] s t)

/-- SHR and SHL shift the register that SHIFT_SOURCE names by one, and VF takes the bit shifted out; with
X = F the VF_WRITE_ORDER decides (R128, R130, R141; the parameter is D13). -/
def Obligations.ShiftsWriteResultAndShiftedOutBit : Prop :=
  ∀ (s : State) (x y z : Reg),
    (s.params.shiftSource = .vx ∧ z = x ∨ s.params.shiftSource = .vy ∧ z = y) →
    (∃ t, exec (.shr x y) s = .next t ∧
      ResultAndFlag s t x ((s.readV z).toNat / 2) ((s.readV z).toNat % 2) ∧
      WritesOnlyRegs [x, VF] s t) ∧
    (∃ t, exec (.shl x y) s = .next t ∧
      ResultAndFlag s t x (2 * (s.readV z).toNat % 256) ((s.readV z).toNat / 128) ∧
      WritesOnlyRegs [x, VF] s t)

/-- RND: V[X] takes the free draw ANDed with KK, the next draw is another, and nothing else changes (R131;
D4, log 4). It holds whatever the draws are and at every value of the counter. -/
def Obligations.RandomIsDrawMaskedByByte : Prop :=
  ∀ (s : State) (x : Reg) (kk : Byte),
    ∃ t, exec (.rnd x kk) s = .next t ∧
      (∀ k, (t.readV x).getLsbD k = ((Config.draw s.draws).getLsbD k && kk.getLsbD k)) ∧
      SameRegsExcept [x] s t ∧ SameBytes s t ∧ SameSpecial { s with draws := s.draws + 1 } t

/-! ## The index register and the timers -/

/-- LD I, addr sets I to NNN, zero-extended, and changes nothing else (R150). -/
def Obligations.LoadIndexImmediate : Prop :=
  ∀ (s : State) (nnn : Addr12),
    ∃ t, exec (.ldI nnn) s = .next t ∧ t.i.toNat = nnn.toNat ∧ t = { s with i := t.i }

/-- LD F, Vx sets I to exactly 5 * V[X], not masked; ADD I, Vx adds modulo 2^16 and writes no flag (R151,
R193; D11, D12). -/
def Obligations.IndexFromRegister : Prop :=
  ∀ (s : State) (x : Reg),
    (∃ t, exec (.ldFVx x) s = .next t ∧ t.i.toNat = 5 * (s.readV x).toNat ∧ t = { s with i := t.i }) ∧
    (∃ t, exec (.addIVx x) s = .next t ∧ t.i.toNat = (s.i.toNat + (s.readV x).toNat) % 65536 ∧
      t = { s with i := t.i })

/-- LD DT, Vx and LD ST, Vx load their timer and change nothing else (R191, R192). -/
def Obligations.TimerLoads : Prop :=
  ∀ (s : State) (x : Reg),
    exec (.ldDtVx x) s = .next { s with dt := s.readV x } ∧
    exec (.ldStVx x) s = .next { s with st := s.readV x }

/-! ## Memory: BCD and block transfers -/

/-- LD B, Vx in range stores the three digits, or the reference's shifts, at I to I+2, and changes nothing
else; out of range it faults with nothing stored (R194, R56; D10, D20). -/
def Obligations.BcdStoresThreeBytes : Prop :=
  ∀ (s : State) (x : Reg),
    (s.effAddr + 2 ≤ 0xFFF → ∃ t, exec (.ldBVx x) s = .next t ∧ s.effAddr = s.i.toNat ∧
      (s.params.bcdMode = .decimal →
        (t.byte s.effAddr).toNat = (s.readV x).toNat / 100 ∧
        (t.byte (s.effAddr + 1)).toNat = (s.readV x).toNat / 10 % 10 ∧
        (t.byte (s.effAddr + 2)).toNat = (s.readV x).toNat % 10) ∧
      (s.params.bcdMode = .referenceShift →
        t.byte s.effAddr = 0 ∧
        (t.byte (s.effAddr + 1)).toNat = (s.readV x).toNat / 16 ∧
        t.byte (s.effAddr + 2) = s.readV x) ∧
      SameBytesOutside s.effAddr 3 s t ∧ t = { s with mem := t.mem }) ∧
    (0xFFF < s.effAddr + 2 → exec (.ldBVx x) s = .fault (.memRange (s.pc - 2) (encode (.ldBVx x))
      (if s.effAddr ≤ 0xFFF then 0x1000 else s.effAddr)))

/-- LD [I], Vx in range stores V0 to VX at I to I+X, advances I by X+1 modulo 2^16, and changes nothing
else; out of range it faults with nothing stored (R195, R56; D10). -/
def Obligations.BulkStore : Prop :=
  ∀ (s : State) (x : Reg),
    (s.effAddr + x.val ≤ 0xFFF → ∃ t, exec (.storeRegs x) s = .next t ∧ s.effAddr = s.i.toNat ∧
      (∀ r, r ≤ x → t.byte (s.effAddr + r.val) = s.readV r) ∧
      t.i.toNat = (s.i.toNat + x.val + 1) % 65536 ∧
      SameBytesOutside s.effAddr (x.val + 1) s t ∧ t = { s with mem := t.mem, i := t.i }) ∧
    (0xFFF < s.effAddr + x.val → exec (.storeRegs x) s =
      .fault (.memRange (s.pc - 2) (encode (.storeRegs x))
        (if s.effAddr ≤ 0xFFF then 0x1000 else s.effAddr)))

/-- LD Vx, [I] in range loads V0 to VX from I to I+X, advances I by X+1 modulo 2^16, and changes nothing
else; out of range it faults with nothing loaded (R196). -/
def Obligations.BulkLoad : Prop :=
  ∀ (s : State) (x : Reg),
    (s.i.toNat + x.val ≤ 0xFFF → ∃ t, exec (.loadRegs x) s = .next t ∧
      (∀ r, r ≤ x → t.readV r = s.byte (s.i.toNat + r.val)) ∧
      (∀ r, x < r → t.readV r = s.readV r) ∧
      t.i.toNat = (s.i.toNat + x.val + 1) % 65536 ∧
      SameBytes s t ∧ SameSpecial { s with i := t.i } t) ∧
    (0xFFF < s.i.toNat + x.val → exec (.loadRegs x) s =
      .fault (.memRange (s.pc - 2) (encode (.loadRegs x))
        (if s.i.toNat ≤ 0xFFF then 0x1000 else s.i.toNat)))

/-- A bulk load from where a bulk store went restores V0 to VX, and I advances by X+1 both times: `u` is
any state with I set back and the block's bytes as the store left them (R197, derived there). -/
def Obligations.BulkRoundTrip : Prop :=
  ∀ (s t u : State) (x : Reg), exec (.storeRegs x) s = .next t → u.i = s.i →
    (∀ r, r ≤ x → u.byte (s.i.toNat + r.val) = t.byte (s.i.toNat + r.val)) →
    ∃ v, exec (.loadRegs x) u = .next v ∧ (∀ r, r ≤ x → v.readV r = s.readV r) ∧
      v.i = t.i ∧ t.i = s.i + BitVec.ofNat 16 (x.val + 1)

/-- A fetch sees the bytes an earlier store left: two registers stored by LD [I], Vx are fetched as one
big-endian word (R71, R57, R247; D24). -/
def Obligations.FetchSeesEarlierStore : Prop :=
  ∀ (s t u : State) (x : Reg) (k : Nat) (hk : k + 1 < 16), k + 1 ≤ x.val →
    exec (.storeRegs x) s = .next t → u.mem = t.mem → u.pc.toNat = s.i.toNat + k →
    u.fetchWord.toNat = (s.readV ⟨k, by omega⟩).toNat * 256 + (s.readV ⟨k + 1, hk⟩).toNat

/-! ## Graphics -/

/-- A pixel is bit `7 - (idx mod 8)` of the byte at `0xF00 + idx div 8` with `idx = 64y + x`, and writing it
sets or clears that bit, no other bit and no other byte; clearing twice is clearing once (R160, R161). -/
def Obligations.SetPixelChangesOneBit : Prop :=
  ∀ (m : Memory) (x y a k : Nat) (on : Bool), x < 64 → y < 32 → a = 0xF00 + (64 * y + x) / 8 →
    k = 7 - (64 * y + x) % 8 →
    m.pixel x y = (m.read a).getLsbD k ∧
    (m.setPixel x y on).pixel x y = on ∧
    (∀ j < 8, j ≠ k → ((m.setPixel x y on).read a).getLsbD j = (m.read a).getLsbD j) ∧
    (∀ b, b ≠ a → (m.setPixel x y on).read b = m.read b) ∧
    (∀ b, ((m.setPixel x y false).setPixel x y false).read b = (m.setPixel x y false).read b)

/-- CLS clears every byte and every pixel of the framebuffer and changes nothing else (R163; D3). -/
def Obligations.ClearScreen : Prop :=
  ∀ s : State, ∃ t, exec .cls s = .next t ∧
    (∀ a, 0xF00 ≤ a → a ≤ 0xFFF → t.byte a = 0) ∧
    (∀ x < 64, ∀ y < 32, t.mem.pixel x y = false) ∧
    SameBytesOutside 0xF00 256 s t ∧ t = { s with mem := t.mem }

/-- DRW with its rows in range, or with none, answers a next state: VF is 0 or 1, the framebuffer alone
changes in memory, and I, `pc` and the rest stay. With rows past 0xFFF, clipped rows included, it faults
with nothing drawn (R164, R56; D10, D16). -/
def Obligations.DrawFrameAndRangeFault : Prop :=
  ∀ (s : State) (x y : Reg) (n : Fin 16),
    (n.val = 0 ∨ s.effAddr + n.val - 1 ≤ 0xFFF →
      ∃ t, exec (.drw x y n) s = .next t ∧ (t.readV VF = 0 ∨ t.readV VF = 1) ∧
        SameRegsExcept [VF] s t ∧ SameBytesOutside 0xF00 256 s t ∧ SameSpecial s t) ∧
    (0 < n.val → 0xFFF < s.effAddr + n.val - 1 →
      exec (.drw x y n) s = .fault (.memRange (s.pc - 2) (encode (.drw x y n))
        (if s.effAddr ≤ 0xFFF then 0x1000 else s.effAddr)))

/-- DRW with N = 0 sets VF to 0 and changes nothing else, wherever I points (R164; D16). -/
def Obligations.DrawOfNoRowsClearsVf : Prop :=
  ∀ (s : State) (x y : Reg), exec (.drw x y 0) s = .next { s with v := s.v.set 15 0 }

/-- DRW of one row more is the shorter DRW and then that row: it is read from memory as the earlier rows
left it, XORed into the pixels it reaches, and its collisions join VF. With `DrawOfNoRowsClearsVf` this
fixes every DRW, sprites inside the framebuffer included (R164, R165; D16). -/
def Obligations.DrawAddsOneRow : Prop :=
  ∀ (s : State) (x y : Reg) (n : Nat) (hn : n + 1 < 16), s.effAddr + n ≤ 0xFFF →
    ∃ t u, exec (.drw x y ⟨n, by omega⟩) s = .next t ∧ exec (.drw x y ⟨n + 1, hn⟩) s = .next u ∧
      (∀ px < 64, ∀ py < 32, u.mem.pixel px py = xor (t.mem.pixel px py)
        (decide (py = (s.readV y).toNat % 32 + n ∧ (s.readV x).toNat % 64 ≤ px ∧
            px < (s.readV x).toNat % 64 + 8) &&
          (t.byte (s.effAddr + n)).getLsbD (7 - (px - (s.readV x).toNat % 64)))) ∧
      (u.readV VF = 1 ↔ t.readV VF = 1 ∨
        ∃ px < 64, ∃ py < 32, t.mem.pixel px py = true ∧ u.mem.pixel px py = false)

/-- DRW of a sprite that lies below the framebuffer XORs the sprite's bits into the display, clipped and
not wrapped, and VF = 1 iff a pixel went from 1 to 0 (R164; D16). -/
def Obligations.DrawXorsSpriteAndReportsCollision : Prop :=
  ∀ (s : State) (x y : Reg) (n : Fin 16), s.effAddr + n.val ≤ 0xF00 →
    ∃ t, exec (.drw x y n) s = .next t ∧
      (∀ px < 64, ∀ py < 32,
        t.mem.pixel px py = xor (s.mem.pixel px py) (s.spriteBit x y n.val px py)) ∧
      (t.readV VF = 1 ↔
        ∃ px < 64, ∃ py < 32, s.mem.pixel px py = true ∧ t.mem.pixel px py = false) ∧
      (t.readV VF = 0 ∨ t.readV VF = 1) ∧
      SameRegsExcept [VF] s t ∧ SameBytesOutside 0xF00 256 s t ∧ SameSpecial s t

/-- Drawing one sprite twice at one position restores every byte of memory; the second VF is 1 when the
first draw turned a pixel on, and the first VF is 0 on a clear display. `u` is any state with the first
draw's memory, I and coordinates as they were; the sprite lies below the framebuffer (R166, derived
there; D16). -/
def Obligations.DrawTwiceRestoresDisplay : Prop :=
  ∀ (s t u : State) (x y : Reg) (n : Fin 16), s.effAddr + n.val ≤ 0xF00 →
    exec (.drw x y n) s = .next t → u.mem = t.mem → u.i = s.i → u.readV x = s.readV x →
    u.readV y = s.readV y →
    ∃ v, exec (.drw x y n) u = .next v ∧ SameBytes s v ∧
      ((∃ px < 64, ∃ py < 32, s.mem.pixel px py = false ∧ t.mem.pixel px py = true) →
        v.readV VF = 1) ∧
      ((∀ px < 64, ∀ py < 32, s.mem.pixel px py = false) → t.readV VF = 0)

/-! ## Input -/

/-- SKP and SKNP of a key that exists skip when it is pressed, or not pressed, and leave it not pressed;
nothing else changes. A value above 0xF names no key: both fault, recording it (R180, R181, R183, R184,
R212; D17). -/
def Obligations.KeySkipsConsumeTheKey : Prop :=
  ∀ (s : State) (x : Reg),
    (∀ k : Fin 16, (s.readV x).toNat = k.val →
      (∃ t, exec (.skp x) s = .next t ∧ t.pc = (if s.key k = true then s.pc + 2 else s.pc) ∧
        t.key k = false ∧ (∀ q, q ≠ k → t.key q = s.key q) ∧
        t = { s with pc := t.pc, keys := t.keys }) ∧
      (∃ t, exec (.sknp x) s = .next t ∧ t.pc = (if s.key k = false then s.pc + 2 else s.pc) ∧
        t.key k = false ∧ (∀ q, q ≠ k → t.key q = s.key q) ∧
        t = { s with pc := t.pc, keys := t.keys })) ∧
    (15 < (s.readV x).toNat →
      exec (.skp x) s = .fault (.keyRange (s.pc - 2) (encode (.skp x)) (s.readV x)) ∧
      exec (.sknp x) s = .fault (.keyRange (s.pc - 2) (encode (.sknp x)) (s.readV x)))

/-- LD Vx, K sets the latch with target X and changes nothing else, V[X] included; the next step is
BLOCKED (R182, R91; D18). -/
def Obligations.KeyWaitSetsLatch : Prop :=
  ∀ (s : State) (x : Reg), s.fault = none →
    ∃ t, exec (.ldVxK x) s = .next t ∧ t = { s with wait := { flag := true, reg := x } } ∧
      step t = .next t ∧ report t = .blocked

/-- LD Vx, K sets `Wait.flag` and puts X in `Wait.reg`; while the flag is set every step reports BLOCKED and
changes nothing, and of all the moves only `resolve_wait` clears it (R33). -/
def Obligations.OnlyResolveWaitClearsLatch : Prop :=
  (∀ (s : State) (x : Reg), ∃ t, exec (.ldVxK x) s = .next t ∧ t.wait.flag = true ∧ t.wait.reg = x) ∧
  ∀ s : State, s.fault = none → s.wait.flag = true →
    move .step s = .done s (.report .blocked) ∧
    ∀ (m : Move) (t : State) (r : Reply), move m s = .done t r → t.wait.flag = false →
      ∃ k, m = .resolveWait k

/-! ## The host's moves -/

/-- `set_key` writes one key and nothing else, blocked or not, and is refused above 15 (R232; D22, D33). -/
def Obligations.SetKeyWritesOneKey : Prop :=
  ∀ (s : State) (k : Nat) (b : Bool), s.fault = none →
    (∀ h : k < 16, ∃ t, move (.setKey k b) s = .done t .nothing ∧ t.key ⟨k, h⟩ = b ∧
      (∀ q : Fin 16, q.val ≠ k → t.key q = s.key q) ∧ t = { s with keys := t.keys }) ∧
    (15 < k → move (.setKey k b) s = .refused .hostPrecondition)

/-- `resolve_wait` while blocked writes the key's index to the latch's target, clears the flag and changes
nothing else; otherwise it is refused (R233; D22, D35). -/
def Obligations.ResolveWaitWritesTargetAndClearsLatch : Prop :=
  ∀ (s : State) (k : Nat), s.fault = none →
    (s.wait.flag = true → k < 16 → ∃ t, move (.resolveWait k) s = .done t .nothing ∧
      (t.readV s.wait.reg).toNat = k ∧ t.wait.flag = false ∧ t.wait.reg = s.wait.reg ∧
      SameRegsExcept [s.wait.reg] s t ∧ t = { s with v := t.v, wait := t.wait }) ∧
    (s.wait.flag = false ∨ 15 < k → move (.resolveWait k) s = .refused .hostPrecondition)

/-- `timer_tick` takes 1 from each timer that is not 0, leaves one at 0, and changes nothing else, blocked
or not (R236; stopping at zero is D21). -/
def Obligations.TimerTickCountsDown : Prop :=
  ∀ s : State, s.fault = none → ∃ t, move .timerTick s = .done t .nothing ∧
    t.dt.toNat = s.dt.toNat - 1 ∧ t.st.toNat = s.st.toNat - 1 ∧
    t = { s with dt := t.dt, st := t.st }

/-- `read_pixel` returns the pixel's bit of the framebuffer and changes nothing; outside the display it is
refused (R234; D25). -/
def Obligations.ReadPixelReturnsBit : Prop :=
  ∀ (s : State) (x y : Nat), s.fault = none →
    (x < 64 → y < 32 → move (.readPixel x y) s =
      .done s (.pixel ((s.byte (0xF00 + (64 * y + x) / 8)).getLsbD (7 - (64 * y + x) % 8)))) ∧
    (64 ≤ x ∨ 32 ≤ y → move (.readPixel x y) s = .refused .hostPrecondition)

/-! ## Rules about the whole machine -/

/-- What no instruction changes, and the only instructions that change each special register: `L` and the
mark never; `sp` CALL and RET; DT and ST their loads; the latch LD Vx, K; the keys SKP and SKNP, which never
press one; I the five of R28 (R28, R29, R31 to R36, R184; D17). Two clauses are no rule of the spec but speak
of the model's own fields: no instruction changes `params` (log 1), and only RND changes `draws` (log 4). -/
def Obligations.SpecialRegistersHaveNamedWriters : Prop :=
  ∀ (i : Instr) (s t : State), exec i s = .next t →
    t.progLen = s.progLen ∧ t.fault = s.fault ∧ t.params = s.params ∧
    (t.sp ≠ s.sp → (∃ nnn, i = .call nnn) ∨ i = .ret) ∧
    (t.dt ≠ s.dt → ∃ x, i = .ldDtVx x) ∧
    (t.st ≠ s.st → ∃ x, i = .ldStVx x) ∧
    (t.wait ≠ s.wait → ∃ x, i = .ldVxK x) ∧
    (t.keys ≠ s.keys → ∃ x, i = .skp x ∨ i = .sknp x) ∧
    (∀ k, t.key k = true → s.key k = true) ∧
    (t.i ≠ s.i → (∃ nnn, i = .ldI nnn) ∨
      ∃ x, i = .addIVx x ∨ i = .ldFVx x ∨ i = .storeRegs x ∨ i = .loadRegs x) ∧
    (t.draws ≠ s.draws → ∃ x kk, i = .rnd x kk)

/-- Memory changes only where `StoresTo` says: CALL's entry, the framebuffer for CLS and DRW, and the bytes
at I for LD B and LD [I] (R60). -/
def Obligations.MemoryChangesOnlyWhereStored : Prop :=
  ∀ (i : Instr) (s t : State), exec i s = .next t →
    ∀ a, ¬ StoresTo i s a → t.byte a = s.byte a

/-- A general register changes only in an instruction that names it as destination, in one that writes the
flag when it is VF, or in a bulk load that reaches it (R22; D11, D15). -/
def Obligations.RegistersChangeOnlyAsDestination : Prop :=
  ∀ (i : Instr) (s t : State), exec i s = .next t →
    ∀ r, ¬ WritesReg i r → t.readV r = s.readV r

/-- Only `set_key` presses a key: no other move, step included, makes a key true that was false (R34, R184;
D17). -/
def Obligations.OnlySetKeyPressesAKey : Prop :=
  ∀ (m : Move) (s t : State) (r : Reply) (k : Fin 16), move m s = .done t r →
    s.key k = false → t.key k = true → m = .setKey k.val true

/-- The delay timer changes only by a tick or by LD DT, Vx, and a step never counts it down: what a step
puts there is a general register (R31, R238). -/
def Obligations.DelayTimerChangesOnlyByTickOrLoad : Prop :=
  ∀ (m : Move) (s t : State) (r : Reply), move m s = .done t r → t.dt ≠ s.dt →
    (m = .timerTick ∧ t.dt.toNat + 1 = s.dt.toNat) ∨
    (m = .step ∧ ∃ x, decode s.fetchWord = .instr (.ldDtVx x) ∧ t.dt = s.readV x)

/-- A run ends exactly where a step reports ENDED: the latch clear, `pc` at or past `0x200 + L`, no fault
(R256; D28). -/
def Obligations.RunEndsExactlyAtEndedReport : Prop :=
  ∀ s : State, s.Ended ↔ move .step s = .done s (.report .ended)
end

