-- ==== Sys2Proof/Laws/Encoding.lean ====
section
/-! SUPPORT. The fields of a word put together by format (R82), and the word put together from its fields. -/

namespace Sys2Proof

/-! ## Fields of an encoding -/

theorem fieldF_encodeA {f : Nat} (hf : f < 16) (nnn : Addr12) : fieldF (encodeA f nnn) = f := by
  have := nnn.isLt
  simp only [fieldF, encodeA, BitVec.toNat_ofNat]
  omega

theorem fieldNNN_encodeA {f : Nat} (nnn : Addr12) : fieldNNN (encodeA f nnn) = nnn := by
  have := nnn.isLt
  apply BitVec.eq_of_toNat_eq
  simp only [fieldNNN, encodeA, BitVec.toNat_ofNat]
  omega

theorem fieldF_encodeXK {f : Nat} (hf : f < 16) (x : Reg) (kk : Byte) : fieldF (encodeXK f x kk) = f := by
  have := x.isLt
  have := kk.isLt
  simp only [fieldF, encodeXK, BitVec.toNat_ofNat]
  omega

theorem fieldX_encodeXK {f : Nat} (x : Reg) (kk : Byte) : fieldX (encodeXK f x kk) = x := by
  have := x.isLt
  have := kk.isLt
  apply Fin.ext
  simp only [fieldX, encodeXK, BitVec.toNat_ofNat, Fin.ofNat]
  omega

theorem fieldKK_encodeXK {f : Nat} (x : Reg) (kk : Byte) : fieldKK (encodeXK f x kk) = kk := by
  have := x.isLt
  have := kk.isLt
  apply BitVec.eq_of_toNat_eq
  simp only [fieldKK, encodeXK, BitVec.toNat_ofNat]
  omega

theorem fieldF_encodeXY {f : Nat} (hf : f < 16) (x y : Reg) (n : Fin 16) : fieldF (encodeXY f x y n) = f := by
  have := x.isLt
  have := y.isLt
  have := n.isLt
  simp only [fieldF, encodeXY, BitVec.toNat_ofNat]
  omega

theorem fieldX_encodeXY {f : Nat} (x y : Reg) (n : Fin 16) : fieldX (encodeXY f x y n) = x := by
  have := x.isLt
  have := y.isLt
  have := n.isLt
  apply Fin.ext
  simp only [fieldX, encodeXY, BitVec.toNat_ofNat, Fin.ofNat]
  omega

theorem fieldY_encodeXY {f : Nat} (x y : Reg) (n : Fin 16) : fieldY (encodeXY f x y n) = y := by
  have := x.isLt
  have := y.isLt
  have := n.isLt
  apply Fin.ext
  simp only [fieldY, encodeXY, BitVec.toNat_ofNat, Fin.ofNat]
  omega

theorem fieldN_encodeXY {f : Nat} (x y : Reg) (n : Fin 16) : fieldN (encodeXY f x y n) = n := by
  have := x.isLt
  have := y.isLt
  have := n.isLt
  apply Fin.ext
  simp only [fieldN, encodeXY, BitVec.toNat_ofNat, Fin.ofNat]
  omega

/-! ## A word from its fields -/

theorem encodeA_fields {w : Word} {f : Nat} (h : fieldF w = f) : encodeA f (fieldNNN w) = w := by
  apply BitVec.eq_of_toNat_eq
  simp only [fieldF] at h
  simp only [encodeA, fieldNNN, BitVec.toNat_ofNat]
  omega

theorem encodeXK_fields {w : Word} {f : Nat} (h : fieldF w = f) :
    encodeXK f (fieldX w) (fieldKK w) = w := by
  apply BitVec.eq_of_toNat_eq
  simp only [fieldF] at h
  simp only [encodeXK, fieldX, fieldKK, BitVec.toNat_ofNat, Fin.ofNat]
  omega

theorem encodeXY_fields {w : Word} {f : Nat} (h : fieldF w = f) :
    encodeXY f (fieldX w) (fieldY w) (fieldN w) = w := by
  apply BitVec.eq_of_toNat_eq
  simp only [fieldF] at h
  simp only [encodeXY, fieldX, fieldY, fieldN, BitVec.toNat_ofNat, Fin.ofNat]
  omega

end Sys2Proof
end

