-- ==== Sys2Proof/Laws/Memory.lean ====
section
/-! SUPPORT. The laws of memory: what a read gives after a write, that every operation keeps the canonical form, and that canonical memories which read alike are equal. -/

namespace Sys2Proof.Machine

variable (m : Memory)

@[simp] theorem Memory.read_nil (a : Nat) : Memory.read [] a = Memory.unlisted a := rfl

theorem Memory.read_cons (c : Host.Cell) (a : Nat) :
    Memory.read (c :: m) a = if c.1 = a then c.2 else Memory.read m a := rfl

/-! ## Reads after writes -/

theorem Memory.read_putCell (a b : Nat) (v : Byte) :
    (m.putCell a v).read b = if a = b then v else m.read b := by
  induction m with
  | nil => simp [Memory.putCell, Memory.read]
  | cons c m ih =>
    unfold Memory.putCell
    split
    · simp [Memory.read]
    · split
      · next h => subst h; simp only [Memory.read_cons]; split <;> rfl
      · next h =>
        simp only [Memory.read_cons, ih]
        split
        · next hc => subst hc; simp [Ne.symm h]
        · rfl

theorem Memory.read_dropCell (a b : Nat) :
    (m.dropCell a).read b = if a = b then Memory.unlisted b else m.read b := by
  induction m with
  | nil => simp [Memory.dropCell, Memory.read]
  | cons c m ih =>
    simp only [Memory.dropCell, List.filter_cons] at ih ⊢
    by_cases h : c.1 = a
    · simp only [h, bne_self_eq_false, Bool.false_eq_true, if_false, ih, Memory.read_cons]
      split <;> rfl
    · simp only [bne_iff_ne, ne_eq, h, not_false_iff, if_true, Memory.read_cons, ih]
      by_cases hb : c.1 = b
      · have hab : a ≠ b := fun e => h (hb.trans e.symm)
        simp [hb, hab]
      · simp [hb]

/-- A write inside the address space changes exactly the byte written (R62). -/
theorem Memory.read_write (a b : Nat) (v : Byte) (ha : a < Config.memSize) :
    (m.write a v).read b = if a = b then v else m.read b := by
  simp only [Memory.write, ha, if_true]
  split
  · next h => rw [Memory.read_dropCell]; split <;> simp_all
  · exact Memory.read_putCell m a b v

@[simp] theorem Memory.read_write_self (a : Nat) (v : Byte) (ha : a < Config.memSize) :
    (m.write a v).read a = v := by simp [Memory.read_write m a a v ha]

theorem Memory.read_write_of_ne (a b : Nat) (v : Byte) (h : a ≠ b) :
    (m.write a v).read b = m.read b := by
  by_cases ha : a < Config.memSize
  · rw [Memory.read_write m a b v ha, if_neg h]
  · simp [Memory.write, ha]

@[simp] theorem Memory.writeList_nil (a : Nat) : m.writeList a [] = m := rfl

@[simp] theorem Memory.writeList_cons (a : Nat) (b : Byte) (bs : List Byte) :
    m.writeList a (b :: bs) = (m.write a b).writeList (a + 1) bs := rfl

/-- Bytes stored from `a` upwards change nothing below `a` or at and above their end. -/
theorem Memory.read_writeList_outside (a b : Nat) (bs : List Byte)
    (h : b < a ∨ a + bs.length ≤ b) : (m.writeList a bs).read b = m.read b := by
  induction bs generalizing m a with
  | nil => rfl
  | cons c bs ih =>
    simp only [List.length_cons] at h
    rw [Memory.writeList_cons, ih _ _ (by omega), Memory.read_write_of_ne _ _ _ _ (by omega)]

/-- Bytes stored from `a` upwards, inside the address space, read back in order. -/
theorem Memory.read_writeList_inside (a k : Nat) (bs : List Byte) (hk : k < bs.length)
    (ha : a + bs.length ≤ Config.memSize) : (m.writeList a bs).read (a + k) = bs[k] := by
  induction bs generalizing m a k with
  | nil => simp at hk
  | cons c bs ih =>
    simp only [List.length_cons] at hk ha
    rw [Memory.writeList_cons]
    match k with
    | 0 =>
      have h0 : a < Config.memSize := by omega
      rw [Memory.read_writeList_outside _ _ _ _ (by omega)]
      exact Memory.read_write_self m a c h0
    | k + 1 =>
      have := ih (m.write a c) (a + 1) k (by omega) (by omega)
      rw [show a + (k + 1) = a + 1 + k by omega, this]
      rfl

/-! ## The canonical form -/

theorem Memory.wf_nil : Memory.wf [] := ⟨List.Pairwise.nil, fun _ h => absurd h List.not_mem_nil⟩

theorem Memory.mem_putCell {a : Nat} {v : Byte} {c : Host.Cell} (h : c ∈ m.putCell a v) :
    c = (a, v) ∨ c ∈ m := by
  induction m with
  | nil => simpa [Memory.putCell] using h
  | cons d m ih =>
    unfold Memory.putCell at h
    split at h
    · simpa using h
    · split at h
      · rcases List.mem_cons.mp h with h | h
        · exact .inl h
        · exact .inr (List.mem_cons_of_mem _ h)
      · rcases List.mem_cons.mp h with h | h
        · exact .inr (h ▸ List.mem_cons_self)
        · exact (ih h).imp id (List.mem_cons_of_mem _)

theorem Memory.pairwise_putCell {a : Nat} {v : Byte}
    (h : m.Pairwise (fun c d => c.1 < d.1)) :
    (m.putCell a v).Pairwise (fun c d => c.1 < d.1) := by
  induction m with
  | nil => simp [Memory.putCell]
  | cons d m ih =>
    obtain ⟨hd, hm⟩ := List.pairwise_cons.mp h
    unfold Memory.putCell
    split
    · next had =>
      refine List.pairwise_cons.mpr ⟨fun c hc => ?_, h⟩
      rcases List.mem_cons.mp hc with rfl | hc
      · exact had
      · exact Nat.lt_trans had (hd c hc)
    · split
      · next e => exact List.pairwise_cons.mpr ⟨fun c hc => e ▸ hd c hc, hm⟩
      · next h1 h2 =>
        refine List.pairwise_cons.mpr ⟨fun c hc => ?_, ih hm⟩
        rcases Memory.mem_putCell m hc with rfl | hc
        · show d.1 < a
          omega
        · exact hd c hc

/-- Every write keeps the canonical form. -/
theorem Memory.wf_write (a : Nat) (v : Byte) (h : m.wf) : (m.write a v).wf := by
  unfold Memory.write
  split
  · next ha =>
    split
    · exact ⟨h.1.filter _, fun c hc => h.2 c (List.mem_filter.mp hc).1⟩
    · next hv =>
      refine ⟨Memory.pairwise_putCell m h.1, fun c hc => ?_⟩
      rcases Memory.mem_putCell m hc with rfl | hc
      · exact ⟨ha, hv⟩
      · exact h.2 c hc
  · exact h

theorem Memory.wf_writeList (a : Nat) (bs : List Byte) (h : m.wf) : (m.writeList a bs).wf := by
  induction bs generalizing m a with
  | nil => exact h
  | cons b bs ih => exact ih _ _ (Memory.wf_write m a b h)

/-! ## Equal memories are equal lists -/

theorem Memory.read_eq_unlisted {a : Nat} (h : ∀ c ∈ m, a < c.1) : m.read a = Memory.unlisted a := by
  induction m with
  | nil => rfl
  | cons c m ih =>
    have hc := h c List.mem_cons_self
    rw [Memory.read_cons, if_neg (by omega), ih fun d hd => h d (List.mem_cons_of_mem _ hd)]

theorem Memory.wf_tail {c : Host.Cell} (h : Memory.wf (c :: m)) : m.wf :=
  ⟨(List.pairwise_cons.mp h.1).2, fun d hd => h.2 d (List.mem_cons_of_mem _ hd)⟩

/-- Canonical memories that read alike at every address are equal. -/
theorem Memory.ext_read {m n : Memory} (hm : m.wf) (hn : n.wf) (h : ∀ a, m.read a = n.read a) :
    m = n := by
  induction m generalizing n with
  | nil =>
    cases n with
    | nil => rfl
    | cons d n =>
      have := h d.1
      rw [Memory.read_cons, if_pos rfl] at this
      exact absurd this.symm (hn.2 d List.mem_cons_self).2
  | cons c m ih =>
    have hc := hm.2 c List.mem_cons_self
    have hcm := (List.pairwise_cons.mp hm.1).1
    cases n with
    | nil =>
      have := h c.1
      rw [Memory.read_cons, if_pos rfl] at this
      exact absurd this hc.2
    | cons d n =>
      have hd := hn.2 d List.mem_cons_self
      have hdn := (List.pairwise_cons.mp hn.1).1
      have key : c.1 = d.1 := by
        rcases Nat.lt_trichotomy c.1 d.1 with hlt | heq | hgt
        · have h1 := h c.1
          rw [Memory.read_cons, if_pos rfl, Memory.read_eq_unlisted (d :: n) fun e he => by
            rcases List.mem_cons.mp he with rfl | he
            · exact hlt
            · exact Nat.lt_trans hlt (hdn e he)] at h1
          exact absurd h1 hc.2
        · exact heq
        · have h1 := h d.1
          rw [Memory.read_cons _ d, if_pos rfl, Memory.read_eq_unlisted (c :: m) fun e he => by
            rcases List.mem_cons.mp he with rfl | he
            · exact hgt
            · exact Nat.lt_trans hgt (hcm e he)] at h1
          exact absurd h1.symm hd.2
      have hv : c.2 = d.2 := by
        have h1 := h c.1
        rwa [Memory.read_cons, if_pos rfl, Memory.read_cons, if_pos key.symm] at h1
      have hcd : c = d := Prod.ext key hv
      subst hcd
      refine congrArg _ (ih (Memory.wf_tail _ hm) (Memory.wf_tail _ hn) fun a => ?_)
      by_cases ha : c.1 = a
      · rw [Memory.read_eq_unlisted m fun e he => ha ▸ hcm e he,
          Memory.read_eq_unlisted n fun e he => ha ▸ hdn e he]
      · have h1 := h a
        rwa [Memory.read_cons, if_neg ha, Memory.read_cons, if_neg ha] at h1

end Sys2Proof.Machine
end

