-- ==== Sys2Proof/Laws/State.lean ====
section
/-! SUPPORT. One lemma per field per update of the state: later proofs never unfold an update. -/

namespace Sys2Proof.Machine

variable (s : State)

@[simp] theorem State.setMem_mem (m : Memory) : (s.setMem m).mem = m := rfl
@[simp] theorem State.setMem_v (m : Memory) : (s.setMem m).v = s.v := rfl
@[simp] theorem State.setMem_i (m : Memory) : (s.setMem m).i = s.i := rfl
@[simp] theorem State.setMem_pc (m : Memory) : (s.setMem m).pc = s.pc := rfl
@[simp] theorem State.setMem_sp (m : Memory) : (s.setMem m).sp = s.sp := rfl
@[simp] theorem State.setMem_dt (m : Memory) : (s.setMem m).dt = s.dt := rfl
@[simp] theorem State.setMem_st (m : Memory) : (s.setMem m).st = s.st := rfl
@[simp] theorem State.setMem_wait (m : Memory) : (s.setMem m).wait = s.wait := rfl
@[simp] theorem State.setMem_keys (m : Memory) : (s.setMem m).keys = s.keys := rfl
@[simp] theorem State.setMem_progLen (m : Memory) : (s.setMem m).progLen = s.progLen := rfl
@[simp] theorem State.setMem_fault (m : Memory) : (s.setMem m).fault = s.fault := rfl
@[simp] theorem State.setMem_params (m : Memory) : (s.setMem m).params = s.params := rfl
@[simp] theorem State.setMem_draws (m : Memory) : (s.setMem m).draws = s.draws := rfl

@[simp] theorem State.setRegs_mem (w : Vector Byte 16) : (s.setRegs w).mem = s.mem := rfl
@[simp] theorem State.setRegs_v (w : Vector Byte 16) : (s.setRegs w).v = w := rfl
@[simp] theorem State.setRegs_i (w : Vector Byte 16) : (s.setRegs w).i = s.i := rfl
@[simp] theorem State.setRegs_pc (w : Vector Byte 16) : (s.setRegs w).pc = s.pc := rfl
@[simp] theorem State.setRegs_sp (w : Vector Byte 16) : (s.setRegs w).sp = s.sp := rfl
@[simp] theorem State.setRegs_dt (w : Vector Byte 16) : (s.setRegs w).dt = s.dt := rfl
@[simp] theorem State.setRegs_st (w : Vector Byte 16) : (s.setRegs w).st = s.st := rfl
@[simp] theorem State.setRegs_wait (w : Vector Byte 16) : (s.setRegs w).wait = s.wait := rfl
@[simp] theorem State.setRegs_keys (w : Vector Byte 16) : (s.setRegs w).keys = s.keys := rfl
@[simp] theorem State.setRegs_progLen (w : Vector Byte 16) : (s.setRegs w).progLen = s.progLen := rfl
@[simp] theorem State.setRegs_fault (w : Vector Byte 16) : (s.setRegs w).fault = s.fault := rfl
@[simp] theorem State.setRegs_params (w : Vector Byte 16) : (s.setRegs w).params = s.params := rfl
@[simp] theorem State.setRegs_draws (w : Vector Byte 16) : (s.setRegs w).draws = s.draws := rfl

@[simp] theorem State.writeV_mem (r : Reg) (b : Byte) : (s.writeV r b).mem = s.mem := rfl
@[simp] theorem State.writeV_v (r : Reg) (b : Byte) : (s.writeV r b).v = s.v.set r b := rfl
@[simp] theorem State.writeV_i (r : Reg) (b : Byte) : (s.writeV r b).i = s.i := rfl
@[simp] theorem State.writeV_pc (r : Reg) (b : Byte) : (s.writeV r b).pc = s.pc := rfl
@[simp] theorem State.writeV_sp (r : Reg) (b : Byte) : (s.writeV r b).sp = s.sp := rfl
@[simp] theorem State.writeV_dt (r : Reg) (b : Byte) : (s.writeV r b).dt = s.dt := rfl
@[simp] theorem State.writeV_st (r : Reg) (b : Byte) : (s.writeV r b).st = s.st := rfl
@[simp] theorem State.writeV_wait (r : Reg) (b : Byte) : (s.writeV r b).wait = s.wait := rfl
@[simp] theorem State.writeV_keys (r : Reg) (b : Byte) : (s.writeV r b).keys = s.keys := rfl
@[simp] theorem State.writeV_progLen (r : Reg) (b : Byte) : (s.writeV r b).progLen = s.progLen := rfl
@[simp] theorem State.writeV_fault (r : Reg) (b : Byte) : (s.writeV r b).fault = s.fault := rfl
@[simp] theorem State.writeV_params (r : Reg) (b : Byte) : (s.writeV r b).params = s.params := rfl
@[simp] theorem State.writeV_draws (r : Reg) (b : Byte) : (s.writeV r b).draws = s.draws := rfl

@[simp] theorem State.setI_mem (a : Word) : (s.setI a).mem = s.mem := rfl
@[simp] theorem State.setI_v (a : Word) : (s.setI a).v = s.v := rfl
@[simp] theorem State.setI_i (a : Word) : (s.setI a).i = a := rfl
@[simp] theorem State.setI_pc (a : Word) : (s.setI a).pc = s.pc := rfl
@[simp] theorem State.setI_sp (a : Word) : (s.setI a).sp = s.sp := rfl
@[simp] theorem State.setI_dt (a : Word) : (s.setI a).dt = s.dt := rfl
@[simp] theorem State.setI_st (a : Word) : (s.setI a).st = s.st := rfl
@[simp] theorem State.setI_wait (a : Word) : (s.setI a).wait = s.wait := rfl
@[simp] theorem State.setI_keys (a : Word) : (s.setI a).keys = s.keys := rfl
@[simp] theorem State.setI_progLen (a : Word) : (s.setI a).progLen = s.progLen := rfl
@[simp] theorem State.setI_fault (a : Word) : (s.setI a).fault = s.fault := rfl
@[simp] theorem State.setI_params (a : Word) : (s.setI a).params = s.params := rfl
@[simp] theorem State.setI_draws (a : Word) : (s.setI a).draws = s.draws := rfl

@[simp] theorem State.setPc_mem (a : Word) : (s.setPc a).mem = s.mem := rfl
@[simp] theorem State.setPc_v (a : Word) : (s.setPc a).v = s.v := rfl
@[simp] theorem State.setPc_i (a : Word) : (s.setPc a).i = s.i := rfl
@[simp] theorem State.setPc_pc (a : Word) : (s.setPc a).pc = a := rfl
@[simp] theorem State.setPc_sp (a : Word) : (s.setPc a).sp = s.sp := rfl
@[simp] theorem State.setPc_dt (a : Word) : (s.setPc a).dt = s.dt := rfl
@[simp] theorem State.setPc_st (a : Word) : (s.setPc a).st = s.st := rfl
@[simp] theorem State.setPc_wait (a : Word) : (s.setPc a).wait = s.wait := rfl
@[simp] theorem State.setPc_keys (a : Word) : (s.setPc a).keys = s.keys := rfl
@[simp] theorem State.setPc_progLen (a : Word) : (s.setPc a).progLen = s.progLen := rfl
@[simp] theorem State.setPc_fault (a : Word) : (s.setPc a).fault = s.fault := rfl
@[simp] theorem State.setPc_params (a : Word) : (s.setPc a).params = s.params := rfl
@[simp] theorem State.setPc_draws (a : Word) : (s.setPc a).draws = s.draws := rfl

@[simp] theorem State.setSp_mem (k : Byte) : (s.setSp k).mem = s.mem := rfl
@[simp] theorem State.setSp_v (k : Byte) : (s.setSp k).v = s.v := rfl
@[simp] theorem State.setSp_i (k : Byte) : (s.setSp k).i = s.i := rfl
@[simp] theorem State.setSp_pc (k : Byte) : (s.setSp k).pc = s.pc := rfl
@[simp] theorem State.setSp_sp (k : Byte) : (s.setSp k).sp = k := rfl
@[simp] theorem State.setSp_dt (k : Byte) : (s.setSp k).dt = s.dt := rfl
@[simp] theorem State.setSp_st (k : Byte) : (s.setSp k).st = s.st := rfl
@[simp] theorem State.setSp_wait (k : Byte) : (s.setSp k).wait = s.wait := rfl
@[simp] theorem State.setSp_keys (k : Byte) : (s.setSp k).keys = s.keys := rfl
@[simp] theorem State.setSp_progLen (k : Byte) : (s.setSp k).progLen = s.progLen := rfl
@[simp] theorem State.setSp_fault (k : Byte) : (s.setSp k).fault = s.fault := rfl
@[simp] theorem State.setSp_params (k : Byte) : (s.setSp k).params = s.params := rfl
@[simp] theorem State.setSp_draws (k : Byte) : (s.setSp k).draws = s.draws := rfl

@[simp] theorem State.setDt_mem (b : Byte) : (s.setDt b).mem = s.mem := rfl
@[simp] theorem State.setDt_v (b : Byte) : (s.setDt b).v = s.v := rfl
@[simp] theorem State.setDt_i (b : Byte) : (s.setDt b).i = s.i := rfl
@[simp] theorem State.setDt_pc (b : Byte) : (s.setDt b).pc = s.pc := rfl
@[simp] theorem State.setDt_sp (b : Byte) : (s.setDt b).sp = s.sp := rfl
@[simp] theorem State.setDt_dt (b : Byte) : (s.setDt b).dt = b := rfl
@[simp] theorem State.setDt_st (b : Byte) : (s.setDt b).st = s.st := rfl
@[simp] theorem State.setDt_wait (b : Byte) : (s.setDt b).wait = s.wait := rfl
@[simp] theorem State.setDt_keys (b : Byte) : (s.setDt b).keys = s.keys := rfl
@[simp] theorem State.setDt_progLen (b : Byte) : (s.setDt b).progLen = s.progLen := rfl
@[simp] theorem State.setDt_fault (b : Byte) : (s.setDt b).fault = s.fault := rfl
@[simp] theorem State.setDt_params (b : Byte) : (s.setDt b).params = s.params := rfl
@[simp] theorem State.setDt_draws (b : Byte) : (s.setDt b).draws = s.draws := rfl

@[simp] theorem State.setSt_mem (b : Byte) : (s.setSt b).mem = s.mem := rfl
@[simp] theorem State.setSt_v (b : Byte) : (s.setSt b).v = s.v := rfl
@[simp] theorem State.setSt_i (b : Byte) : (s.setSt b).i = s.i := rfl
@[simp] theorem State.setSt_pc (b : Byte) : (s.setSt b).pc = s.pc := rfl
@[simp] theorem State.setSt_sp (b : Byte) : (s.setSt b).sp = s.sp := rfl
@[simp] theorem State.setSt_dt (b : Byte) : (s.setSt b).dt = s.dt := rfl
@[simp] theorem State.setSt_st (b : Byte) : (s.setSt b).st = b := rfl
@[simp] theorem State.setSt_wait (b : Byte) : (s.setSt b).wait = s.wait := rfl
@[simp] theorem State.setSt_keys (b : Byte) : (s.setSt b).keys = s.keys := rfl
@[simp] theorem State.setSt_progLen (b : Byte) : (s.setSt b).progLen = s.progLen := rfl
@[simp] theorem State.setSt_fault (b : Byte) : (s.setSt b).fault = s.fault := rfl
@[simp] theorem State.setSt_params (b : Byte) : (s.setSt b).params = s.params := rfl
@[simp] theorem State.setSt_draws (b : Byte) : (s.setSt b).draws = s.draws := rfl

@[simp] theorem State.setWait_mem (l : WaitLatch) : (s.setWait l).mem = s.mem := rfl
@[simp] theorem State.setWait_v (l : WaitLatch) : (s.setWait l).v = s.v := rfl
@[simp] theorem State.setWait_i (l : WaitLatch) : (s.setWait l).i = s.i := rfl
@[simp] theorem State.setWait_pc (l : WaitLatch) : (s.setWait l).pc = s.pc := rfl
@[simp] theorem State.setWait_sp (l : WaitLatch) : (s.setWait l).sp = s.sp := rfl
@[simp] theorem State.setWait_dt (l : WaitLatch) : (s.setWait l).dt = s.dt := rfl
@[simp] theorem State.setWait_st (l : WaitLatch) : (s.setWait l).st = s.st := rfl
@[simp] theorem State.setWait_wait (l : WaitLatch) : (s.setWait l).wait = l := rfl
@[simp] theorem State.setWait_keys (l : WaitLatch) : (s.setWait l).keys = s.keys := rfl
@[simp] theorem State.setWait_progLen (l : WaitLatch) : (s.setWait l).progLen = s.progLen := rfl
@[simp] theorem State.setWait_fault (l : WaitLatch) : (s.setWait l).fault = s.fault := rfl
@[simp] theorem State.setWait_params (l : WaitLatch) : (s.setWait l).params = s.params := rfl
@[simp] theorem State.setWait_draws (l : WaitLatch) : (s.setWait l).draws = s.draws := rfl

@[simp] theorem State.setKey_mem (k : Fin 16) (b : Bool) : (s.setKey k b).mem = s.mem := rfl
@[simp] theorem State.setKey_v (k : Fin 16) (b : Bool) : (s.setKey k b).v = s.v := rfl
@[simp] theorem State.setKey_i (k : Fin 16) (b : Bool) : (s.setKey k b).i = s.i := rfl
@[simp] theorem State.setKey_pc (k : Fin 16) (b : Bool) : (s.setKey k b).pc = s.pc := rfl
@[simp] theorem State.setKey_sp (k : Fin 16) (b : Bool) : (s.setKey k b).sp = s.sp := rfl
@[simp] theorem State.setKey_dt (k : Fin 16) (b : Bool) : (s.setKey k b).dt = s.dt := rfl
@[simp] theorem State.setKey_st (k : Fin 16) (b : Bool) : (s.setKey k b).st = s.st := rfl
@[simp] theorem State.setKey_wait (k : Fin 16) (b : Bool) : (s.setKey k b).wait = s.wait := rfl
@[simp] theorem State.setKey_keys (k : Fin 16) (b : Bool) : (s.setKey k b).keys = s.keys.set k b := rfl
@[simp] theorem State.setKey_progLen (k : Fin 16) (b : Bool) : (s.setKey k b).progLen = s.progLen := rfl
@[simp] theorem State.setKey_fault (k : Fin 16) (b : Bool) : (s.setKey k b).fault = s.fault := rfl
@[simp] theorem State.setKey_params (k : Fin 16) (b : Bool) : (s.setKey k b).params = s.params := rfl
@[simp] theorem State.setKey_draws (k : Fin 16) (b : Bool) : (s.setKey k b).draws = s.draws := rfl

@[simp] theorem State.setProgLen_mem (l : Fin (Config.progCap + 1)) : (s.setProgLen l).mem = s.mem := rfl
@[simp] theorem State.setProgLen_v (l : Fin (Config.progCap + 1)) : (s.setProgLen l).v = s.v := rfl
@[simp] theorem State.setProgLen_i (l : Fin (Config.progCap + 1)) : (s.setProgLen l).i = s.i := rfl
@[simp] theorem State.setProgLen_pc (l : Fin (Config.progCap + 1)) : (s.setProgLen l).pc = s.pc := rfl
@[simp] theorem State.setProgLen_sp (l : Fin (Config.progCap + 1)) : (s.setProgLen l).sp = s.sp := rfl
@[simp] theorem State.setProgLen_dt (l : Fin (Config.progCap + 1)) : (s.setProgLen l).dt = s.dt := rfl
@[simp] theorem State.setProgLen_st (l : Fin (Config.progCap + 1)) : (s.setProgLen l).st = s.st := rfl
@[simp] theorem State.setProgLen_wait (l : Fin (Config.progCap + 1)) : (s.setProgLen l).wait = s.wait := rfl
@[simp] theorem State.setProgLen_keys (l : Fin (Config.progCap + 1)) : (s.setProgLen l).keys = s.keys := rfl
@[simp] theorem State.setProgLen_progLen (l : Fin (Config.progCap + 1)) : (s.setProgLen l).progLen = l := rfl
@[simp] theorem State.setProgLen_fault (l : Fin (Config.progCap + 1)) : (s.setProgLen l).fault = s.fault := rfl
@[simp] theorem State.setProgLen_params (l : Fin (Config.progCap + 1)) : (s.setProgLen l).params = s.params := rfl
@[simp] theorem State.setProgLen_draws (l : Fin (Config.progCap + 1)) : (s.setProgLen l).draws = s.draws := rfl

@[simp] theorem State.setFault_mem (f : Option Fault) : (s.setFault f).mem = s.mem := rfl
@[simp] theorem State.setFault_v (f : Option Fault) : (s.setFault f).v = s.v := rfl
@[simp] theorem State.setFault_i (f : Option Fault) : (s.setFault f).i = s.i := rfl
@[simp] theorem State.setFault_pc (f : Option Fault) : (s.setFault f).pc = s.pc := rfl
@[simp] theorem State.setFault_sp (f : Option Fault) : (s.setFault f).sp = s.sp := rfl
@[simp] theorem State.setFault_dt (f : Option Fault) : (s.setFault f).dt = s.dt := rfl
@[simp] theorem State.setFault_st (f : Option Fault) : (s.setFault f).st = s.st := rfl
@[simp] theorem State.setFault_wait (f : Option Fault) : (s.setFault f).wait = s.wait := rfl
@[simp] theorem State.setFault_keys (f : Option Fault) : (s.setFault f).keys = s.keys := rfl
@[simp] theorem State.setFault_progLen (f : Option Fault) : (s.setFault f).progLen = s.progLen := rfl
@[simp] theorem State.setFault_fault (f : Option Fault) : (s.setFault f).fault = f := rfl
@[simp] theorem State.setFault_params (f : Option Fault) : (s.setFault f).params = s.params := rfl
@[simp] theorem State.setFault_draws (f : Option Fault) : (s.setFault f).draws = s.draws := rfl

@[simp] theorem State.setDraws_mem (n : Nat) : (s.setDraws n).mem = s.mem := rfl
@[simp] theorem State.setDraws_v (n : Nat) : (s.setDraws n).v = s.v := rfl
@[simp] theorem State.setDraws_i (n : Nat) : (s.setDraws n).i = s.i := rfl
@[simp] theorem State.setDraws_pc (n : Nat) : (s.setDraws n).pc = s.pc := rfl
@[simp] theorem State.setDraws_sp (n : Nat) : (s.setDraws n).sp = s.sp := rfl
@[simp] theorem State.setDraws_dt (n : Nat) : (s.setDraws n).dt = s.dt := rfl
@[simp] theorem State.setDraws_st (n : Nat) : (s.setDraws n).st = s.st := rfl
@[simp] theorem State.setDraws_wait (n : Nat) : (s.setDraws n).wait = s.wait := rfl
@[simp] theorem State.setDraws_keys (n : Nat) : (s.setDraws n).keys = s.keys := rfl
@[simp] theorem State.setDraws_progLen (n : Nat) : (s.setDraws n).progLen = s.progLen := rfl
@[simp] theorem State.setDraws_fault (n : Nat) : (s.setDraws n).fault = s.fault := rfl
@[simp] theorem State.setDraws_params (n : Nat) : (s.setDraws n).params = s.params := rfl
@[simp] theorem State.setDraws_draws (n : Nat) : (s.setDraws n).draws = n := rfl

@[simp] theorem State.store_mem (a : Nat) (bs : List Byte) : (s.store a bs).mem = s.mem.writeList a bs := rfl
@[simp] theorem State.store_v (a : Nat) (bs : List Byte) : (s.store a bs).v = s.v := rfl
@[simp] theorem State.store_i (a : Nat) (bs : List Byte) : (s.store a bs).i = s.i := rfl
@[simp] theorem State.store_pc (a : Nat) (bs : List Byte) : (s.store a bs).pc = s.pc := rfl
@[simp] theorem State.store_sp (a : Nat) (bs : List Byte) : (s.store a bs).sp = s.sp := rfl
@[simp] theorem State.store_dt (a : Nat) (bs : List Byte) : (s.store a bs).dt = s.dt := rfl
@[simp] theorem State.store_st (a : Nat) (bs : List Byte) : (s.store a bs).st = s.st := rfl
@[simp] theorem State.store_wait (a : Nat) (bs : List Byte) : (s.store a bs).wait = s.wait := rfl
@[simp] theorem State.store_keys (a : Nat) (bs : List Byte) : (s.store a bs).keys = s.keys := rfl
@[simp] theorem State.store_progLen (a : Nat) (bs : List Byte) : (s.store a bs).progLen = s.progLen := rfl
@[simp] theorem State.store_fault (a : Nat) (bs : List Byte) : (s.store a bs).fault = s.fault := rfl
@[simp] theorem State.store_params (a : Nat) (bs : List Byte) : (s.store a bs).params = s.params := rfl
@[simp] theorem State.store_draws (a : Nat) (bs : List Byte) : (s.store a bs).draws = s.draws := rfl

@[simp] theorem State.skipIf_mem (c : Bool) : (s.skipIf c).mem = s.mem := rfl
@[simp] theorem State.skipIf_v (c : Bool) : (s.skipIf c).v = s.v := rfl
@[simp] theorem State.skipIf_i (c : Bool) : (s.skipIf c).i = s.i := rfl
@[simp] theorem State.skipIf_pc (c : Bool) : (s.skipIf c).pc = if c then s.pc + 2 else s.pc := rfl
@[simp] theorem State.skipIf_sp (c : Bool) : (s.skipIf c).sp = s.sp := rfl
@[simp] theorem State.skipIf_dt (c : Bool) : (s.skipIf c).dt = s.dt := rfl
@[simp] theorem State.skipIf_st (c : Bool) : (s.skipIf c).st = s.st := rfl
@[simp] theorem State.skipIf_wait (c : Bool) : (s.skipIf c).wait = s.wait := rfl
@[simp] theorem State.skipIf_keys (c : Bool) : (s.skipIf c).keys = s.keys := rfl
@[simp] theorem State.skipIf_progLen (c : Bool) : (s.skipIf c).progLen = s.progLen := rfl
@[simp] theorem State.skipIf_fault (c : Bool) : (s.skipIf c).fault = s.fault := rfl
@[simp] theorem State.skipIf_params (c : Bool) : (s.skipIf c).params = s.params := rfl
@[simp] theorem State.skipIf_draws (c : Bool) : (s.skipIf c).draws = s.draws := rfl

@[simp] theorem State.stackWrite_mem (k : Nat) (w : Word) : (s.stackWrite k w).mem = s.mem.writeList (stackEntry k) [firstByte s.params.stackByteOrder w, secondByte s.params.stackByteOrder w] := rfl
@[simp] theorem State.stackWrite_v (k : Nat) (w : Word) : (s.stackWrite k w).v = s.v := rfl
@[simp] theorem State.stackWrite_i (k : Nat) (w : Word) : (s.stackWrite k w).i = s.i := rfl
@[simp] theorem State.stackWrite_pc (k : Nat) (w : Word) : (s.stackWrite k w).pc = s.pc := rfl
@[simp] theorem State.stackWrite_sp (k : Nat) (w : Word) : (s.stackWrite k w).sp = s.sp := rfl
@[simp] theorem State.stackWrite_dt (k : Nat) (w : Word) : (s.stackWrite k w).dt = s.dt := rfl
@[simp] theorem State.stackWrite_st (k : Nat) (w : Word) : (s.stackWrite k w).st = s.st := rfl
@[simp] theorem State.stackWrite_wait (k : Nat) (w : Word) : (s.stackWrite k w).wait = s.wait := rfl
@[simp] theorem State.stackWrite_keys (k : Nat) (w : Word) : (s.stackWrite k w).keys = s.keys := rfl
@[simp] theorem State.stackWrite_progLen (k : Nat) (w : Word) : (s.stackWrite k w).progLen = s.progLen := rfl
@[simp] theorem State.stackWrite_fault (k : Nat) (w : Word) : (s.stackWrite k w).fault = s.fault := rfl
@[simp] theorem State.stackWrite_params (k : Nat) (w : Word) : (s.stackWrite k w).params = s.params := rfl
@[simp] theorem State.stackWrite_draws (k : Nat) (w : Word) : (s.stackWrite k w).draws = s.draws := rfl

@[simp] theorem State.writeResultFlag_mem (x : Reg) (res flag : Byte) :
    (s.writeResultFlag x res flag).mem = s.mem := by
  unfold State.writeResultFlag; split <;> rfl
@[simp] theorem State.writeResultFlag_i (x : Reg) (res flag : Byte) :
    (s.writeResultFlag x res flag).i = s.i := by
  unfold State.writeResultFlag; split <;> rfl
@[simp] theorem State.writeResultFlag_pc (x : Reg) (res flag : Byte) :
    (s.writeResultFlag x res flag).pc = s.pc := by
  unfold State.writeResultFlag; split <;> rfl
@[simp] theorem State.writeResultFlag_sp (x : Reg) (res flag : Byte) :
    (s.writeResultFlag x res flag).sp = s.sp := by
  unfold State.writeResultFlag; split <;> rfl
@[simp] theorem State.writeResultFlag_dt (x : Reg) (res flag : Byte) :
    (s.writeResultFlag x res flag).dt = s.dt := by
  unfold State.writeResultFlag; split <;> rfl
@[simp] theorem State.writeResultFlag_st (x : Reg) (res flag : Byte) :
    (s.writeResultFlag x res flag).st = s.st := by
  unfold State.writeResultFlag; split <;> rfl
@[simp] theorem State.writeResultFlag_wait (x : Reg) (res flag : Byte) :
    (s.writeResultFlag x res flag).wait = s.wait := by
  unfold State.writeResultFlag; split <;> rfl
@[simp] theorem State.writeResultFlag_keys (x : Reg) (res flag : Byte) :
    (s.writeResultFlag x res flag).keys = s.keys := by
  unfold State.writeResultFlag; split <;> rfl
@[simp] theorem State.writeResultFlag_progLen (x : Reg) (res flag : Byte) :
    (s.writeResultFlag x res flag).progLen = s.progLen := by
  unfold State.writeResultFlag; split <;> rfl
@[simp] theorem State.writeResultFlag_fault (x : Reg) (res flag : Byte) :
    (s.writeResultFlag x res flag).fault = s.fault := by
  unfold State.writeResultFlag; split <;> rfl
@[simp] theorem State.writeResultFlag_params (x : Reg) (res flag : Byte) :
    (s.writeResultFlag x res flag).params = s.params := by
  unfold State.writeResultFlag; split <;> rfl
@[simp] theorem State.writeResultFlag_draws (x : Reg) (res flag : Byte) :
    (s.writeResultFlag x res flag).draws = s.draws := by
  unfold State.writeResultFlag; split <;> rfl

/-! The accessors after an update of a field they do not read. -/

@[simp] theorem State.readV_setMem (m : Memory) (q : Reg) : (s.setMem m).readV q = s.readV q := rfl
@[simp] theorem State.readV_setI (a : Word) (q : Reg) : (s.setI a).readV q = s.readV q := rfl
@[simp] theorem State.readV_setPc (a : Word) (q : Reg) : (s.setPc a).readV q = s.readV q := rfl
@[simp] theorem State.readV_setSp (k : Byte) (q : Reg) : (s.setSp k).readV q = s.readV q := rfl
@[simp] theorem State.readV_setDt (b : Byte) (q : Reg) : (s.setDt b).readV q = s.readV q := rfl
@[simp] theorem State.readV_setSt (b : Byte) (q : Reg) : (s.setSt b).readV q = s.readV q := rfl
@[simp] theorem State.readV_setWait (l : WaitLatch) (q : Reg) : (s.setWait l).readV q = s.readV q := rfl
@[simp] theorem State.readV_setKey (k : Fin 16) (b : Bool) (q : Reg) : (s.setKey k b).readV q = s.readV q := rfl
@[simp] theorem State.readV_setProgLen (l : Fin (Config.progCap + 1)) (q : Reg) : (s.setProgLen l).readV q = s.readV q := rfl
@[simp] theorem State.readV_setFault (f : Option Fault) (q : Reg) : (s.setFault f).readV q = s.readV q := rfl
@[simp] theorem State.readV_setDraws (n : Nat) (q : Reg) : (s.setDraws n).readV q = s.readV q := rfl
@[simp] theorem State.readV_store (a : Nat) (bs : List Byte) (q : Reg) : (s.store a bs).readV q = s.readV q := rfl
@[simp] theorem State.readV_skipIf (c : Bool) (q : Reg) : (s.skipIf c).readV q = s.readV q := rfl
@[simp] theorem State.readV_stackWrite (k : Nat) (w : Word) (q : Reg) : (s.stackWrite k w).readV q = s.readV q := rfl

@[simp] theorem State.byte_setRegs (w : Vector Byte 16) (x : Nat) : (s.setRegs w).byte x = s.byte x := rfl
@[simp] theorem State.byte_writeV (r : Reg) (b : Byte) (x : Nat) : (s.writeV r b).byte x = s.byte x := rfl
@[simp] theorem State.byte_setI (a : Word) (x : Nat) : (s.setI a).byte x = s.byte x := rfl
@[simp] theorem State.byte_setPc (a : Word) (x : Nat) : (s.setPc a).byte x = s.byte x := rfl
@[simp] theorem State.byte_setSp (k : Byte) (x : Nat) : (s.setSp k).byte x = s.byte x := rfl
@[simp] theorem State.byte_setDt (b : Byte) (x : Nat) : (s.setDt b).byte x = s.byte x := rfl
@[simp] theorem State.byte_setSt (b : Byte) (x : Nat) : (s.setSt b).byte x = s.byte x := rfl
@[simp] theorem State.byte_setWait (l : WaitLatch) (x : Nat) : (s.setWait l).byte x = s.byte x := rfl
@[simp] theorem State.byte_setKey (k : Fin 16) (b : Bool) (x : Nat) : (s.setKey k b).byte x = s.byte x := rfl
@[simp] theorem State.byte_setProgLen (l : Fin (Config.progCap + 1)) (x : Nat) : (s.setProgLen l).byte x = s.byte x := rfl
@[simp] theorem State.byte_setFault (f : Option Fault) (x : Nat) : (s.setFault f).byte x = s.byte x := rfl
@[simp] theorem State.byte_setDraws (n : Nat) (x : Nat) : (s.setDraws n).byte x = s.byte x := rfl
@[simp] theorem State.byte_skipIf (c : Bool) (x : Nat) : (s.skipIf c).byte x = s.byte x := rfl

@[simp] theorem State.key_setMem (m : Memory) (q : Fin 16) : (s.setMem m).key q = s.key q := rfl
@[simp] theorem State.key_setRegs (w : Vector Byte 16) (q : Fin 16) : (s.setRegs w).key q = s.key q := rfl
@[simp] theorem State.key_writeV (r : Reg) (b : Byte) (q : Fin 16) : (s.writeV r b).key q = s.key q := rfl
@[simp] theorem State.key_setI (a : Word) (q : Fin 16) : (s.setI a).key q = s.key q := rfl
@[simp] theorem State.key_setPc (a : Word) (q : Fin 16) : (s.setPc a).key q = s.key q := rfl
@[simp] theorem State.key_setSp (k : Byte) (q : Fin 16) : (s.setSp k).key q = s.key q := rfl
@[simp] theorem State.key_setDt (b : Byte) (q : Fin 16) : (s.setDt b).key q = s.key q := rfl
@[simp] theorem State.key_setSt (b : Byte) (q : Fin 16) : (s.setSt b).key q = s.key q := rfl
@[simp] theorem State.key_setWait (l : WaitLatch) (q : Fin 16) : (s.setWait l).key q = s.key q := rfl
@[simp] theorem State.key_setProgLen (l : Fin (Config.progCap + 1)) (q : Fin 16) : (s.setProgLen l).key q = s.key q := rfl
@[simp] theorem State.key_setFault (f : Option Fault) (q : Fin 16) : (s.setFault f).key q = s.key q := rfl
@[simp] theorem State.key_setDraws (n : Nat) (q : Fin 16) : (s.setDraws n).key q = s.key q := rfl
@[simp] theorem State.key_store (a : Nat) (bs : List Byte) (q : Fin 16) : (s.store a bs).key q = s.key q := rfl
@[simp] theorem State.key_skipIf (c : Bool) (q : Fin 16) : (s.skipIf c).key q = s.key q := rfl
@[simp] theorem State.key_stackWrite (k : Nat) (w : Word) (q : Fin 16) : (s.stackWrite k w).key q = s.key q := rfl

@[simp] theorem State.progEnd_setMem (m : Memory) : (s.setMem m).progEnd = s.progEnd := rfl
@[simp] theorem State.progEnd_setRegs (w : Vector Byte 16) : (s.setRegs w).progEnd = s.progEnd := rfl
@[simp] theorem State.progEnd_writeV (r : Reg) (b : Byte) : (s.writeV r b).progEnd = s.progEnd := rfl
@[simp] theorem State.progEnd_setI (a : Word) : (s.setI a).progEnd = s.progEnd := rfl
@[simp] theorem State.progEnd_setPc (a : Word) : (s.setPc a).progEnd = s.progEnd := rfl
@[simp] theorem State.progEnd_setSp (k : Byte) : (s.setSp k).progEnd = s.progEnd := rfl
@[simp] theorem State.progEnd_setDt (b : Byte) : (s.setDt b).progEnd = s.progEnd := rfl
@[simp] theorem State.progEnd_setSt (b : Byte) : (s.setSt b).progEnd = s.progEnd := rfl
@[simp] theorem State.progEnd_setWait (l : WaitLatch) : (s.setWait l).progEnd = s.progEnd := rfl
@[simp] theorem State.progEnd_setKey (k : Fin 16) (b : Bool) : (s.setKey k b).progEnd = s.progEnd := rfl
@[simp] theorem State.progEnd_setFault (f : Option Fault) : (s.setFault f).progEnd = s.progEnd := rfl
@[simp] theorem State.progEnd_setDraws (n : Nat) : (s.setDraws n).progEnd = s.progEnd := rfl
@[simp] theorem State.progEnd_store (a : Nat) (bs : List Byte) : (s.store a bs).progEnd = s.progEnd := rfl
@[simp] theorem State.progEnd_skipIf (c : Bool) : (s.skipIf c).progEnd = s.progEnd := rfl
@[simp] theorem State.progEnd_stackWrite (k : Nat) (w : Word) : (s.stackWrite k w).progEnd = s.progEnd := rfl

@[simp] theorem State.effAddr_setMem (m : Memory) : (s.setMem m).effAddr = s.effAddr := rfl
@[simp] theorem State.effAddr_setRegs (w : Vector Byte 16) : (s.setRegs w).effAddr = s.effAddr := rfl
@[simp] theorem State.effAddr_writeV (r : Reg) (b : Byte) : (s.writeV r b).effAddr = s.effAddr := rfl
@[simp] theorem State.effAddr_setPc (a : Word) : (s.setPc a).effAddr = s.effAddr := rfl
@[simp] theorem State.effAddr_setSp (k : Byte) : (s.setSp k).effAddr = s.effAddr := rfl
@[simp] theorem State.effAddr_setDt (b : Byte) : (s.setDt b).effAddr = s.effAddr := rfl
@[simp] theorem State.effAddr_setSt (b : Byte) : (s.setSt b).effAddr = s.effAddr := rfl
@[simp] theorem State.effAddr_setWait (l : WaitLatch) : (s.setWait l).effAddr = s.effAddr := rfl
@[simp] theorem State.effAddr_setKey (k : Fin 16) (b : Bool) : (s.setKey k b).effAddr = s.effAddr := rfl
@[simp] theorem State.effAddr_setProgLen (l : Fin (Config.progCap + 1)) : (s.setProgLen l).effAddr = s.effAddr := rfl
@[simp] theorem State.effAddr_setFault (f : Option Fault) : (s.setFault f).effAddr = s.effAddr := rfl
@[simp] theorem State.effAddr_setDraws (n : Nat) : (s.setDraws n).effAddr = s.effAddr := rfl
@[simp] theorem State.effAddr_store (a : Nat) (bs : List Byte) : (s.store a bs).effAddr = s.effAddr := rfl
@[simp] theorem State.effAddr_skipIf (c : Bool) : (s.skipIf c).effAddr = s.effAddr := rfl
@[simp] theorem State.effAddr_stackWrite (k : Nat) (w : Word) : (s.stackWrite k w).effAddr = s.effAddr := rfl

@[simp] theorem State.instrAddr_setMem (m : Memory) : (s.setMem m).instrAddr = s.instrAddr := rfl
@[simp] theorem State.instrAddr_setRegs (w : Vector Byte 16) : (s.setRegs w).instrAddr = s.instrAddr := rfl
@[simp] theorem State.instrAddr_writeV (r : Reg) (b : Byte) : (s.writeV r b).instrAddr = s.instrAddr := rfl
@[simp] theorem State.instrAddr_setI (a : Word) : (s.setI a).instrAddr = s.instrAddr := rfl
@[simp] theorem State.instrAddr_setSp (k : Byte) : (s.setSp k).instrAddr = s.instrAddr := rfl
@[simp] theorem State.instrAddr_setDt (b : Byte) : (s.setDt b).instrAddr = s.instrAddr := rfl
@[simp] theorem State.instrAddr_setSt (b : Byte) : (s.setSt b).instrAddr = s.instrAddr := rfl
@[simp] theorem State.instrAddr_setWait (l : WaitLatch) : (s.setWait l).instrAddr = s.instrAddr := rfl
@[simp] theorem State.instrAddr_setKey (k : Fin 16) (b : Bool) : (s.setKey k b).instrAddr = s.instrAddr := rfl
@[simp] theorem State.instrAddr_setProgLen (l : Fin (Config.progCap + 1)) : (s.setProgLen l).instrAddr = s.instrAddr := rfl
@[simp] theorem State.instrAddr_setFault (f : Option Fault) : (s.setFault f).instrAddr = s.instrAddr := rfl
@[simp] theorem State.instrAddr_setDraws (n : Nat) : (s.setDraws n).instrAddr = s.instrAddr := rfl
@[simp] theorem State.instrAddr_store (a : Nat) (bs : List Byte) : (s.store a bs).instrAddr = s.instrAddr := rfl
@[simp] theorem State.instrAddr_stackWrite (k : Nat) (w : Word) : (s.stackWrite k w).instrAddr = s.instrAddr := rfl

@[simp] theorem State.stackRead_setRegs (w : Vector Byte 16) (q : Nat) : (s.setRegs w).stackRead q = s.stackRead q := rfl
@[simp] theorem State.stackRead_writeV (r : Reg) (b : Byte) (q : Nat) : (s.writeV r b).stackRead q = s.stackRead q := rfl
@[simp] theorem State.stackRead_setI (a : Word) (q : Nat) : (s.setI a).stackRead q = s.stackRead q := rfl
@[simp] theorem State.stackRead_setPc (a : Word) (q : Nat) : (s.setPc a).stackRead q = s.stackRead q := rfl
@[simp] theorem State.stackRead_setSp (k : Byte) (q : Nat) : (s.setSp k).stackRead q = s.stackRead q := rfl
@[simp] theorem State.stackRead_setDt (b : Byte) (q : Nat) : (s.setDt b).stackRead q = s.stackRead q := rfl
@[simp] theorem State.stackRead_setSt (b : Byte) (q : Nat) : (s.setSt b).stackRead q = s.stackRead q := rfl
@[simp] theorem State.stackRead_setWait (l : WaitLatch) (q : Nat) : (s.setWait l).stackRead q = s.stackRead q := rfl
@[simp] theorem State.stackRead_setKey (k : Fin 16) (b : Bool) (q : Nat) : (s.setKey k b).stackRead q = s.stackRead q := rfl
@[simp] theorem State.stackRead_setProgLen (l : Fin (Config.progCap + 1)) (q : Nat) : (s.setProgLen l).stackRead q = s.stackRead q := rfl
@[simp] theorem State.stackRead_setFault (f : Option Fault) (q : Nat) : (s.setFault f).stackRead q = s.stackRead q := rfl
@[simp] theorem State.stackRead_setDraws (n : Nat) (q : Nat) : (s.setDraws n).stackRead q = s.stackRead q := rfl
@[simp] theorem State.stackRead_skipIf (c : Bool) (q : Nat) : (s.skipIf c).stackRead q = s.stackRead q := rfl

@[simp] theorem State.byte_writeResultFlag (d : Reg) (res flag : Byte) (x : Nat) :
    (s.writeResultFlag d res flag).byte x = s.byte x := by
  unfold State.writeResultFlag; split <;> rfl
@[simp] theorem State.key_writeResultFlag (d : Reg) (res flag : Byte) (q : Fin 16) :
    (s.writeResultFlag d res flag).key q = s.key q := by
  unfold State.writeResultFlag; split <;> rfl
@[simp] theorem State.progEnd_writeResultFlag (d : Reg) (res flag : Byte) :
    (s.writeResultFlag d res flag).progEnd = s.progEnd := by
  unfold State.writeResultFlag; split <;> rfl
@[simp] theorem State.effAddr_writeResultFlag (d : Reg) (res flag : Byte) :
    (s.writeResultFlag d res flag).effAddr = s.effAddr := by
  unfold State.writeResultFlag; split <;> rfl
@[simp] theorem State.instrAddr_writeResultFlag (d : Reg) (res flag : Byte) :
    (s.writeResultFlag d res flag).instrAddr = s.instrAddr := by
  unfold State.writeResultFlag; split <;> rfl
@[simp] theorem State.stackRead_writeResultFlag (d : Reg) (res flag : Byte) (q : Nat) :
    (s.writeResultFlag d res flag).stackRead q = s.stackRead q := by
  unfold State.writeResultFlag; split <;> rfl

end Sys2Proof.Machine
end

