-- ==== Sys2Proof/Laws/Ops.lean ====
section
/-! SUPPORT. What each shared operation can do, said once. -/

namespace Sys2Proof.Machine

variable (s : State)

/-! ## Registers and keys -/

theorem State.readV_writeV (r q : Reg) (b : Byte) :
    (s.writeV r b).readV q = if r = q then b else s.readV q := by
  simp only [State.writeV, State.readV, Fin.getElem_fin, Vector.getElem_set, Fin.ext_iff]

@[simp] theorem State.readV_writeV_self (r : Reg) (b : Byte) : (s.writeV r b).readV r = b := by
  simp [State.readV_writeV]

theorem State.readV_writeV_of_ne {r q : Reg} (b : Byte) (h : r ≠ q) :
    (s.writeV r b).readV q = s.readV q := by simp [State.readV_writeV, h]

theorem State.key_setKey (k q : Fin 16) (b : Bool) :
    (s.setKey k b).key q = if k = q then b else s.key q := by
  simp only [State.setKey, State.key, Fin.getElem_fin, Vector.getElem_set, Fin.ext_iff]

/-- R196: V0 to VX come from memory, the others are as they were. -/
theorem State.readV_setRegs_loadBlock (x q : Reg) (a : Nat) :
    (s.setRegs (s.loadBlock x a)).readV q = if q ≤ x then s.byte (a + q.val) else s.readV q := by
  simp [State.readV, State.setRegs, State.loadBlock]

@[simp] theorem State.length_regBlock (x : Reg) : (s.regBlock x).length = x.val + 1 := by
  simp [State.regBlock]

theorem State.getElem_regBlock (x : Reg) (k : Nat) (hk : k < (s.regBlock x).length)
    (h : k < 16) : (s.regBlock x)[k] = s.readV ⟨k, h⟩ := by
  simp [State.regBlock, Fin.ofNat, Nat.mod_eq_of_lt h]

/-! ## Memory through the state -/

@[simp] theorem State.byte_setMem (m : Memory) (a : Nat) : (s.setMem m).byte a = m.read a := rfl

theorem State.byte_store_outside (a b : Nat) (bs : List Byte) (h : b < a ∨ a + bs.length ≤ b) :
    (s.store a bs).byte b = s.byte b :=
  Memory.read_writeList_outside s.mem a b bs h

theorem State.byte_store_inside (a k : Nat) (bs : List Byte) (hk : k < bs.length)
    (ha : a + bs.length ≤ Config.memSize) : (s.store a bs).byte (a + k) = bs[k] :=
  Memory.read_writeList_inside s.mem a k bs hk ha

/-! ## Bytes and words -/

@[simp] theorem wordOfBytes_high_low (w : Word) : wordOfBytes (highByte w) (lowByte w) = w := by
  apply BitVec.eq_of_getLsbD_eq
  intro k hk
  simp only [wordOfBytes, highByte, lowByte, BitVec.getLsbD_append, BitVec.getLsbD_extractLsb']
  by_cases h : k < 8
  · simp [h]
  · simp only [h, if_false, show k - 8 < 8 by omega, decide_true, Bool.true_and]
    congr 1
    omega

@[simp] theorem highByte_wordOfBytes (a b : Byte) : highByte (wordOfBytes a b) = a := by
  apply BitVec.eq_of_getLsbD_eq
  intro k hk
  simp only [wordOfBytes, highByte, BitVec.getLsbD_extractLsb', BitVec.getLsbD_append]
  simp [hk]

@[simp] theorem lowByte_wordOfBytes (a b : Byte) : lowByte (wordOfBytes a b) = b := by
  apply BitVec.eq_of_getLsbD_eq
  intro k hk
  simp only [wordOfBytes, lowByte, BitVec.getLsbD_extractLsb', BitVec.getLsbD_append]
  simp [hk]

theorem toNat_highByte (w : Word) : (highByte w).toNat = w.toNat / 256 := by
  have := w.isLt
  simp only [highByte, BitVec.extractLsb'_toNat, Nat.shiftRight_eq_div_pow]
  omega

theorem toNat_lowByte (w : Word) : (lowByte w).toNat = w.toNat % 256 := by
  simp [lowByte, BitVec.extractLsb'_toNat]

theorem toNat_wordOfBytes (a b : Byte) : (wordOfBytes a b).toNat = a.toNat * 256 + b.toNat := by
  have h := toNat_highByte (wordOfBytes a b)
  have h' := toNat_lowByte (wordOfBytes a b)
  rw [highByte_wordOfBytes] at h
  rw [lowByte_wordOfBytes] at h'
  omega

theorem toNat_addrOperand (nnn : Addr12) : (addrOperand nnn).toNat = nnn.toNat := by
  have := nnn.isLt
  simp only [addrOperand, BitVec.toNat_setWidth]
  omega

theorem toNat_wide (b : Byte) : (wide b).toNat = b.toNat := by
  have := b.isLt
  simp only [wide, BitVec.toNat_setWidth]
  omega

@[simp] theorem entryWord_bytes (o : StackByteOrder) (w : Word) :
    entryWord o (firstByte o w) (secondByte o w) = w := by
  cases o <;> simp [entryWord, firstByte, secondByte]

/-! ## The call stack -/

/-- An entry reads back as the word written to it, in either byte order (R54). -/
theorem State.stackRead_stackWrite (k : Nat) (w : Word) (h : k < Config.stackDepth) :
    (s.stackWrite k w).stackRead k = w := by
  have he : stackEntry k + 2 ≤ Config.memSize := by
    simp only [stackEntry, Config.stackBase, Config.memSize, Config.stackDepth] at *
    omega
  have h0 := State.byte_store_inside s (stackEntry k) 0
    [firstByte s.params.stackByteOrder w, secondByte s.params.stackByteOrder w] (by simp) he
  have h1 := State.byte_store_inside s (stackEntry k) 1
    [firstByte s.params.stackByteOrder w, secondByte s.params.stackByteOrder w] (by simp) he
  simp only [Nat.add_zero] at h0
  simp only [State.stackRead, State.stackWrite_params]
  unfold State.stackWrite
  rw [h0, h1]
  exact entryWord_bytes _ w

/-- Two states that agree on an entry's bytes and on the byte order read the same entry. -/
theorem State.stackRead_congr {s t : State} (k : Nat) (hp : t.params = s.params)
    (h0 : t.byte (stackEntry k) = s.byte (stackEntry k))
    (h1 : t.byte (stackEntry k + 1) = s.byte (stackEntry k + 1)) : t.stackRead k = s.stackRead k := by
  simp [State.stackRead, hp, h0, h1]

/-! ## The range test and the policy -/

theorem rangeError_none {base count : Nat} (h : count = 0 ∨ base + count ≤ Config.memSize) :
    rangeError base count = none := by
  simp only [rangeError, ite_eq_right_iff, reduceCtorEq, imp_false]
  omega

theorem rangeError_some {base count : Nat} (h0 : 0 < count) (h : Config.memSize < base + count) :
    rangeError base count = some (max base Config.memSize) := by
  simp [rangeError, h0, h]

theorem checkRange_ok (i : Instr) {base count : Nat} (k : Result)
    (h : count = 0 ∨ base + count ≤ Config.memSize) : checkRange i s base count k = k := by
  simp [checkRange, rangeError_none h]

theorem checkRange_fault (i : Instr) {base count : Nat} (k : Result) (h0 : 0 < count)
    (h : Config.memSize < base + count) :
    checkRange i s base count k = .fault (.memRange s.instrAddr (encode i) (max base Config.memSize)) := by
  simp [checkRange, rangeError_some h0 h, raise]

/-- A range-tested meaning that answers a next state is in range and answers what it guards. -/
theorem checkRange_next {i : Instr} {base count : Nat} {k : Result} {t : State}
    (h : checkRange i s base count k = .next t) :
    (count = 0 ∨ base + count ≤ Config.memSize) ∧ k = .next t := by
  by_cases hr : count = 0 ∨ base + count ≤ Config.memSize
  · exact ⟨hr, by rwa [checkRange_ok s i k hr] at h⟩
  · rw [checkRange_fault s i k (by omega) (by omega)] at h
    exact nomatch h

theorem ambiguousWord_noop (w : Word) (h : s.params.ambiguousWordPolicy = .noop) :
    ambiguousWord w s = .next s := by simp [ambiguousWord, h]

theorem ambiguousWord_refuse (w : Word) (h : s.params.ambiguousWordPolicy = .refuse) :
    ambiguousWord w s = .refused (.ambiguousWord s.instrAddr w) := by simp [ambiguousWord, h]

/-- An ambiguous word that answers a next state changes nothing. -/
theorem ambiguousWord_next {w : Word} {t : State} (h : ambiguousWord w s = .next t) : t = s := by
  unfold ambiguousWord at h
  split at h
  · exact (Host.Outcome.next.inj h).symm
  · exact nomatch h

/-! ## Flags -/

theorem flagByte_eq_one (c : Bool) : flagByte c = 1 ↔ c = true := by cases c <;> decide

theorem flagByte_eq_zero (c : Bool) : flagByte c = 0 ↔ c = false := by cases c <;> decide

/-- `WriteResultFlag` (R141), register by register. -/
theorem State.readV_writeResultFlag (x q : Reg) (res flag : Byte) :
    (s.writeResultFlag x res flag).readV q =
      if q = VF then (if x = VF then vfResult s.params.vfWriteOrder res flag else flag)
      else if q = x then res else s.readV q := by
  unfold State.writeResultFlag
  by_cases hx : x = VF
  · subst hx
    by_cases hq : q = VF
    · subst hq; simp
    · simp [hq, State.readV_writeV, Ne.symm hq]
  · by_cases hq : q = VF
    · subst hq; simp [hx]
    · simp [hx, hq, State.readV_writeV, Ne.symm hq, eq_comm (a := q)]

/-! ## Keys -/

theorem keyOperand_lt {b : Byte} (h : b.toNat < 16) : keyOperand b = some ⟨b.toNat, h⟩ := by
  simp [keyOperand, h]

theorem keyOperand_ge {b : Byte} (h : 16 ≤ b.toNat) : keyOperand b = none := by
  simp [keyOperand, Nat.not_lt.mpr h]

/-- A key test that answers a next state: its key exists, is not pressed after it, and `pc` moves on by
2 exactly when the key was found as `skipWhen` says. -/
theorem keySkip_next {i : Instr} {x : Reg} {c : Bool} {t : State} (h : keySkip i x c s = .next t) :
    ∃ k : Fin 16, k.val = (s.readV x).toNat ∧ t = (s.skipIf (s.key k == c)).setKey k false := by
  unfold keySkip at h
  split at h
  · exact nomatch h
  · next k hk =>
    refine ⟨k, ?_, (Host.Outcome.next.inj h).symm⟩
    unfold keyOperand at hk
    split at hk
    · rw [← Option.some.inj hk]
    · exact nomatch hk

end Sys2Proof.Machine
end

