-- ==== Sys2Proof/Laws/Graphics.lean ====
section
/-! SUPPORT. The pixel engine: what a pixel reads as after a pixel write, a sprite row, and a clear; and that drawing keeps memory canonical. -/

namespace Sys2Proof.Machine

variable (m : Memory)

/-! ## Pixel addresses -/

theorem pixelAddr_bounds {x y : Nat} (hx : x < 64) (hy : y < 32) :
    0xF00 ≤ pixelAddr x y ∧ pixelAddr x y < 0x1000 := by
  simp only [pixelAddr, Config.fbBase, Config.fbWidth]
  omega

theorem pixelBit_lt (x y : Nat) : pixelBit x y < 8 := by
  simp only [pixelBit]
  omega

/-- No two pixels of the display are one bit. -/
theorem pixel_place_inj {x y u v : Nat} (hx : x < 64) (hu : u < 64)
    (ha : pixelAddr x y = pixelAddr u v) (hb : pixelBit x y = pixelBit u v) : x = u ∧ y = v := by
  simp only [pixelAddr, pixelBit, Config.fbBase, Config.fbWidth] at ha hb
  omega

/-- Every bit of the framebuffer is the bit of a pixel (R160). -/
theorem getLsbD_eq_pixel {a k : Nat} (h0 : 0xF00 ≤ a) (hk : k < 8) :
    (m.read a).getLsbD k = m.pixel ((a - 0xF00) % 8 * 8 + (7 - k)) ((a - 0xF00) / 8) := by
  have hA : pixelAddr ((a - 0xF00) % 8 * 8 + (7 - k)) ((a - 0xF00) / 8) = a := by
    simp only [pixelAddr, Config.fbBase, Config.fbWidth]
    omega
  have hB : pixelBit ((a - 0xF00) % 8 * 8 + (7 - k)) ((a - 0xF00) / 8) = k := by
    simp only [pixelBit, Config.fbWidth]
    omega
  rw [Memory.pixel, hA, hB]

/-- Memories that agree outside the framebuffer and on every pixel read alike. -/
theorem read_eq_of_pixels {m n : Memory} (ho : ∀ a, ¬ (0xF00 ≤ a ∧ a < 0x1000) → m.read a = n.read a)
    (hp : ∀ x < 64, ∀ y < 32, m.pixel x y = n.pixel x y) (a : Nat) : m.read a = n.read a := by
  by_cases h : 0xF00 ≤ a ∧ a < 0x1000
  · apply BitVec.eq_of_getLsbD_eq
    intro k hk
    rw [getLsbD_eq_pixel m h.1 hk, getLsbD_eq_pixel n h.1 hk]
    exact hp _ (by omega) _ (by omega)
  · exact ho a h

/-! ## One pixel -/

theorem getLsbD_setBit (b : Byte) (k j : Nat) (on : Bool) (hj : j < 8) :
    (setBit b k on).getLsbD j = if j = k then on else b.getLsbD j := by
  have h1 : (1 : Byte).getLsbD (j - k) = decide (j - k = 0) := by
    simp
  unfold setBit
  by_cases h : j = k
  · subst h
    cases on <;> simp [hj]
  · by_cases hlt : j < k
    · cases on <;> simp [hj, h, hlt]
    · have h0 : j - k ≠ 0 := by omega
      cases on <;> simp [hj, h, hlt, h0]

/-- A pixel write changes that pixel alone (R161). -/
theorem pixel_setPixel {x y u v : Nat} (on : Bool) (hx : x < 64) (hy : y < 32) (hu : u < 64) :
    (m.setPixel x y on).pixel u v = if x = u ∧ y = v then on else m.pixel u v := by
  have hb := pixelAddr_bounds hx hy
  simp only [Memory.pixel, Memory.setPixel,
    Memory.read_write m (pixelAddr x y) _ _ (show pixelAddr x y < Config.memSize from hb.2)]
  by_cases ha : pixelAddr x y = pixelAddr u v
  · rw [if_pos ha, getLsbD_setBit _ _ _ _ (pixelBit_lt u v)]
    by_cases hk : pixelBit u v = pixelBit x y
    · rw [if_pos hk, if_pos (pixel_place_inj hx hu ha hk.symm)]
    · rw [if_neg hk, ha, if_neg]
      rintro ⟨rfl, rfl⟩
      exact hk rfl
  · rw [if_neg ha, if_neg]
    rintro ⟨rfl, rfl⟩
    exact ha rfl

theorem read_setPixel_outside {x y a : Nat} (on : Bool) (hx : x < 64) (hy : y < 32)
    (h : ¬ (0xF00 ≤ a ∧ a < 0x1000)) : (m.setPixel x y on).read a = m.read a := by
  have hb := pixelAddr_bounds hx hy
  exact Memory.read_write_of_ne _ _ _ _ (by omega)

theorem wf_setPixel (x y : Nat) (on : Bool) (h : m.wf) : (m.setPixel x y on).wf :=
  Memory.wf_write _ _ _ h

/-! ## A sprite row -/

/-- A column draws nothing or writes one pixel of the display. -/
theorem drawColumn_cases (row : Byte) (x0 y : Nat) (d : Canvas) (c : Nat) :
    drawColumn row x0 y d c = d ∨
      (x0 + c < 64 ∧ row.getLsbD (7 - c) = true ∧ drawColumn row x0 y d c =
        (d.1.setPixel (x0 + c) y (!d.1.pixel (x0 + c) y), d.2 || d.1.pixel (x0 + c) y)) := by
  unfold drawColumn
  split
  · exact .inl rfl
  · next h =>
    split
    · next hr => exact .inr ⟨by simpa [Config.fbWidth] using h, hr, rfl⟩
    · exact .inl rfl

/-- A column XORs its sprite bit into its pixel (R164). -/
theorem pixel_drawColumn (row : Byte) (x0 : Nat) {y : Nat} (d : Canvas) (c : Nat) (hy : y < 32) {u v : Nat}
    (hu : u < 64) : (drawColumn row x0 y d c).1.pixel u v =
      xor (d.1.pixel u v) (decide (v = y ∧ u = x0 + c) && row.getLsbD (7 - c)) := by
  unfold drawColumn
  split
  · next h =>
    have : ¬ (v = y ∧ u = x0 + c) := by simp only [Config.fbWidth] at h; omega
    simp [this]
  · next h =>
    split
    · next hr =>
      rw [pixel_setPixel _ _ (by simpa [Config.fbWidth] using h) hy hu]
      by_cases hp : x0 + c = u ∧ y = v
      · obtain ⟨rfl, rfl⟩ := hp
        simp [hr]
      · have : ¬ (v = y ∧ u = x0 + c) := fun e => hp ⟨e.2.symm, e.1.symm⟩
        rw [if_neg hp]
        simp [this]
    · next hr => simp [hr]

/-- The first `n` columns of a row. -/
def drawColumns (row : Byte) (x0 y : Nat) (d : Canvas) (n : Nat) : Canvas :=
  (List.range n).foldl (drawColumn row x0 y) d

theorem drawColumns_succ (row : Byte) (x0 y : Nat) (d : Canvas) (n : Nat) :
    drawColumns row x0 y d (n + 1) = drawColumn row x0 y (drawColumns row x0 y d n) n := by
  simp [drawColumns, List.range_succ, List.foldl_append]

theorem drawRow_eq (row : Byte) (x0 y : Nat) (d : Canvas) :
    drawRow row x0 y d = drawColumns row x0 y d 8 := rfl

/-- Whether the first `n` columns of a row at (x0, y) have a set bit at pixel (u, v). -/
def columnBit (row : Byte) (x0 y n u v : Nat) : Bool :=
  decide (v = y ∧ x0 ≤ u ∧ u < x0 + n) && row.getLsbD (7 - (u - x0))

theorem pixel_drawColumns (row : Byte) (x0 : Nat) {y : Nat} (d : Canvas) (n : Nat) (hy : y < 32)
    {u v : Nat} (hu : u < 64) : (drawColumns row x0 y d n).1.pixel u v =
      xor (d.1.pixel u v) (columnBit row x0 y n u v) := by
  induction n with
  | zero =>
    have : ¬ (v = y ∧ x0 ≤ u ∧ u < x0 + 0) := by omega
    simp only [columnBit, this, decide_false, Bool.false_and, Bool.xor_false]
    rfl
  | succ n ih =>
    rw [drawColumns_succ, pixel_drawColumn _ _ _ _ hy hu, ih]
    by_cases h : v = y ∧ u = x0 + n
    · obtain ⟨rfl, rfl⟩ := h
      simp [columnBit]
    · have : (v = y ∧ x0 ≤ u ∧ u < x0 + (n + 1)) ↔ (v = y ∧ x0 ≤ u ∧ u < x0 + n) := by omega
      simp [columnBit, h, this]

/-- The collision mark after the first `n` columns: some visible pixel with a sprite bit was set. -/
theorem collided_drawColumns (row : Byte) (x0 : Nat) {y : Nat} (d : Canvas) (n : Nat) (hy : y < 32) :
    (drawColumns row x0 y d n).2 = true ↔ d.2 = true ∨
      ∃ u < 64, columnBit row x0 y n u y = true ∧ d.1.pixel u y = true := by
  induction n with
  | zero =>
    have h0 : ∀ u, columnBit row x0 y 0 u y = false := fun u => by simp [columnBit]
    simp only [h0, Bool.false_eq_true, false_and, and_false, exists_false, or_false]
    rfl
  | succ n ih =>
    have hsucc : ∀ u, columnBit row x0 y (n + 1) u y = true ↔
        columnBit row x0 y n u y = true ∨ (u = x0 + n ∧ row.getLsbD (7 - n) = true) := fun u => by
      simp only [columnBit, Bool.and_eq_true, decide_eq_true_eq, true_and]
      constructor
      · rintro ⟨⟨h1, h2⟩, h3⟩
        rcases Nat.lt_or_ge u (x0 + n) with h | h
        · exact .inl ⟨⟨h1, h⟩, h3⟩
        · have e : u = x0 + n := by omega
          exact .inr ⟨e, by simpa [e] using h3⟩
      · rintro (⟨⟨h1, h2⟩, h3⟩ | ⟨rfl, h3⟩)
        · exact ⟨⟨h1, by omega⟩, h3⟩
        · exact ⟨⟨by omega, by omega⟩, by simpa using h3⟩
    rw [drawColumns_succ]
    have hpix : ∀ u < 64, u = x0 + n → (drawColumns row x0 y d n).1.pixel u y = d.1.pixel u y := by
      intro u hu e
      rw [pixel_drawColumns _ _ _ _ hy hu]
      have : ¬ (x0 ≤ u ∧ u < x0 + n) := by omega
      simp [columnBit, this]
    rcases drawColumn_cases row x0 y (drawColumns row x0 y d n) n with h | ⟨hlt, hr, h⟩
    · rw [h, ih]
      refine or_congr_right (exists_congr fun u => and_congr_right fun hu => ?_)
      rw [hsucc]
      constructor
      · rintro ⟨h1, h2⟩; exact ⟨.inl h1, h2⟩
      · rintro ⟨h1 | ⟨rfl, hr⟩, h2⟩
        · exact ⟨h1, h2⟩
        · exfalso
          have h3 : drawColumn row x0 y (drawColumns row x0 y d n) n =
              ((drawColumns row x0 y d n).1.setPixel (x0 + n) y
                (!(drawColumns row x0 y d n).1.pixel (x0 + n) y),
               (drawColumns row x0 y d n).2 || (drawColumns row x0 y d n).1.pixel (x0 + n) y) := by
            have : ¬ Config.fbWidth ≤ x0 + n := by simpa [Config.fbWidth] using hu
            simp [drawColumn, this, hr]
          have h4 := congrArg (fun c : Canvas => c.1.pixel (x0 + n) y) (h3.symm.trans h)
          simp only [pixel_setPixel _ _ hu hy hu, and_self, if_true] at h4
          simp at h4
    · rw [h]
      simp only [Bool.or_eq_true, ih, hpix (x0 + n) hlt rfl]
      constructor
      · rintro ((h1 | ⟨u, hu, h1, h2⟩) | h1)
        · exact .inl h1
        · exact .inr ⟨u, hu, (hsucc u).mpr (.inl h1), h2⟩
        · exact .inr ⟨x0 + n, hlt, (hsucc _).mpr (.inr ⟨rfl, hr⟩), h1⟩
      · rintro (h1 | ⟨u, hu, h1, h2⟩)
        · exact .inl (.inl h1)
        · rcases (hsucc u).mp h1 with h1 | ⟨rfl, -⟩
          · exact .inl (.inr ⟨u, hu, h1, h2⟩)
          · exact .inr h2

theorem read_drawColumns_outside (row : Byte) (x0 : Nat) {y : Nat} (d : Canvas) (n : Nat) (hy : y < 32)
    {a : Nat} (h : ¬ (0xF00 ≤ a ∧ a < 0x1000)) : (drawColumns row x0 y d n).1.read a = d.1.read a := by
  induction n with
  | zero => rfl
  | succ n ih =>
    rw [drawColumns_succ]
    rcases drawColumn_cases row x0 y (drawColumns row x0 y d n) n with e | ⟨hlt, -, e⟩
    · rw [e, ih]
    · rw [e, ← ih]
      exact read_setPixel_outside _ _ hlt hy h

theorem wf_drawColumns (row : Byte) (x0 y : Nat) (d : Canvas) (n : Nat) (h : d.1.wf) :
    (drawColumns row x0 y d n).1.wf := by
  induction n with
  | zero => exact h
  | succ n ih =>
    rw [drawColumns_succ]
    rcases drawColumn_cases row x0 y (drawColumns row x0 y d n) n with e | ⟨-, -, e⟩
    · rw [e]; exact ih
    · rw [e]; exact wf_setPixel _ _ _ _ ih

/-! ## The rows of a sprite -/

@[simp] theorem drawSprite_zero (base x0 y0 : Nat) : drawSprite m base x0 y0 0 = (m, false) := rfl

theorem drawSprite_succ (base x0 y0 n : Nat) :
    drawSprite m base x0 y0 (n + 1) = drawSpriteRow base x0 y0 (drawSprite m base x0 y0 n) n := by
  simp [drawSprite, List.range_succ, List.foldl_append]

/-- Row `r` XORs its bits into the display; the bits come from memory as the earlier rows left it. -/
theorem pixel_drawSpriteRow (base x0 y0 : Nat) (d : Canvas) (r : Nat) {u v : Nat} (hu : u < 64)
    (hv : v < 32) : (drawSpriteRow base x0 y0 d r).1.pixel u v =
      xor (d.1.pixel u v) (columnBit (d.1.read (base + r)) x0 (y0 + r) 8 u v) := by
  unfold drawSpriteRow
  split
  · next h =>
    have : ¬ (v = y0 + r ∧ x0 ≤ u ∧ u < x0 + 8) := by simp only [Config.fbHeight] at h; omega
    simp [columnBit, this]
  · next h =>
    rw [drawRow_eq, pixel_drawColumns _ _ _ _ (by simpa [Config.fbHeight] using h) hu]

theorem collided_drawSpriteRow (base x0 y0 : Nat) (d : Canvas) (r : Nat) :
    (drawSpriteRow base x0 y0 d r).2 = true ↔ d.2 = true ∨ ∃ u < 64, ∃ v < 32,
      columnBit (d.1.read (base + r)) x0 (y0 + r) 8 u v = true ∧ d.1.pixel u v = true := by
  unfold drawSpriteRow
  split
  · next h =>
    refine ⟨.inl, ?_⟩
    rintro (h1 | ⟨u, -, v, hv, h1, -⟩)
    · exact h1
    · simp only [columnBit, Bool.and_eq_true, decide_eq_true_eq] at h1
      simp only [Config.fbHeight] at h
      omega
  · next h =>
    have hy : y0 + r < 32 := by simpa [Config.fbHeight] using h
    rw [drawRow_eq, collided_drawColumns _ _ _ _ hy]
    refine or_congr_right ⟨?_, ?_⟩
    · rintro ⟨u, hu, h1, h2⟩
      exact ⟨u, hu, _, hy, h1, h2⟩
    · rintro ⟨u, hu, v, hv, h1, h2⟩
      have e : v = y0 + r := by
        simp only [columnBit, Bool.and_eq_true, decide_eq_true_eq] at h1
        exact h1.1.1
      subst e
      exact ⟨u, hu, h1, h2⟩

theorem read_drawSprite_outside (base x0 y0 n : Nat) {a : Nat} (h : ¬ (0xF00 ≤ a ∧ a < 0x1000)) :
    (drawSprite m base x0 y0 n).1.read a = m.read a := by
  induction n with
  | zero => rfl
  | succ n ih =>
    rw [drawSprite_succ, ← ih]
    unfold drawSpriteRow
    split
    · rfl
    · next hy =>
      rw [drawRow_eq, read_drawColumns_outside _ _ _ _ (by simpa [Config.fbHeight] using hy) h]

theorem wf_drawSprite (base x0 y0 n : Nat) (h : m.wf) : (drawSprite m base x0 y0 n).1.wf := by
  induction n with
  | zero => exact h
  | succ n ih =>
    rw [drawSprite_succ]
    unfold drawSpriteRow
    split
    · exact ih
    · exact wf_drawColumns _ _ _ _ _ ih

/-! ## The whole display -/

theorem read_clearDisplay_inside {a : Nat} (h0 : 0xF00 ≤ a) (h1 : a < 0x1000) :
    m.clearDisplay.read a = 0 := by
  have h := Memory.read_writeList_inside m Config.fbBase (a - 0xF00) (List.replicate Config.fbSize 0)
    (by simp only [List.length_replicate, Config.fbSize]; omega)
    (by rw [List.length_replicate]; decide)
  rw [show Config.fbBase + (a - 0xF00) = a by simp only [Config.fbBase]; omega] at h
  simpa [Memory.clearDisplay] using h

theorem read_clearDisplay_outside {a : Nat} (h : ¬ (0xF00 ≤ a ∧ a < 0x1000)) :
    m.clearDisplay.read a = m.read a :=
  Memory.read_writeList_outside m _ _ _ (by simp only [List.length_replicate, Config.fbSize, Config.fbBase]; omega)

theorem wf_clearDisplay (h : m.wf) : m.clearDisplay.wf := Memory.wf_writeList _ _ _ h

end Sys2Proof.Machine
end

