-- ==== Sys2Proof/Laws/Step.lean ====
section
/-! SUPPORT. The step, one lemma per way it can begin (R90, R214), and what each says when the step answers a next state. -/

namespace Sys2Proof.Machine

variable {s : State}

theorem stepStart_marked {f : Fault} (h : s.fault = some f) : stepStart s = .marked f := by
  simp [stepStart, h]

theorem stepStart_blocked (h : s.fault = none) (hw : s.wait.flag = true) : stepStart s = .blocked := by
  simp [stepStart, h, hw]

theorem stepStart_ended (h : s.fault = none) (hw : s.wait.flag = false)
    (he : s.progEnd ≤ s.pc.toNat) : stepStart s = .ended := by
  simp [stepStart, h, hw, he]

theorem stepStart_misaligned (h : s.fault = none) (hw : s.wait.flag = false)
    (he : s.pc.toNat < s.progEnd) (ho : s.pc.toNat % 2 = 1) :
    stepStart s = .badFetch (.pcMisaligned s.pc) := by
  simp [stepStart, h, hw, Nat.not_le.mpr he, ho]

theorem stepStart_range (h : s.fault = none) (hw : s.wait.flag = false)
    (he : s.pc.toNat < s.progEnd) (ho : s.pc.toNat % 2 = 0) (hr : s.pc.toNat < 0x200) :
    stepStart s = .badFetch (.pcRange s.pc) := by
  simp [stepStart, h, hw, Nat.not_le.mpr he, ho, hr, Config.progBase]

theorem stepStart_fetched (h : s.Fetches) : stepStart s = .fetched s.fetchWord s.afterFetch := by
  obtain ⟨h0, hw, he, ho, hr⟩ := h
  simp [stepStart, h0, hw, Nat.not_le.mpr he, ho, Nat.not_lt.mpr hr]

/-- The fetch succeeds only where `Fetches` says. -/
theorem fetches_of_stepStart {w : Word} {t : State} (h : stepStart s = .fetched w t) :
    s.Fetches ∧ w = s.fetchWord ∧ t = s.afterFetch := by
  unfold stepStart at h
  split at h
  · exact nomatch h
  · next hf =>
    split at h
    · exact nomatch h
    · next hw =>
      split at h
      · exact nomatch h
      · next he =>
        split at h
        · exact nomatch h
        · next ho =>
          split at h
          · exact nomatch h
          · next hr =>
            obtain ⟨rfl, rfl⟩ := StepStart.fetched.inj h
            exact ⟨⟨hf, by simpa using hw, by omega, by omega, by omega⟩, rfl, rfl⟩

/-- A step that fetches does what the decoded word does (R90). -/
theorem step_fetched (h : s.Fetches) : step s = execDecoded (decode s.fetchWord) s.fetchWord s.afterFetch := by
  simp [step, stepStart_fetched h]

/-- Every way a step can answer a next state: it changes nothing, or a decoded instruction runs, or a
word that is none leaves the state after the fetch. -/
theorem step_next {t : State} (h : step s = .next t) :
    t = s ∨ (s.Fetches ∧ ((∃ i, decode s.fetchWord = .instr i ∧ exec i s.afterFetch = .next t) ∨
      t = s.afterFetch)) := by
  unfold step at h
  split at h
  · exact nomatch h
  · exact .inl (Host.Outcome.next.inj h).symm
  · exact .inl (Host.Outcome.next.inj h).symm
  · exact nomatch h
  · next w u hs =>
    obtain ⟨hf, rfl, rfl⟩ := fetches_of_stepStart hs
    refine .inr ⟨hf, ?_⟩
    unfold execDecoded at h
    split at h
    · next i hi => exact .inl ⟨i, hi, h⟩
    · exact .inr (Host.Outcome.next.inj h).symm
    · exact .inr (ambiguousWord_next _ h)

/-- The state a meaning answers is the one it was given to answer. -/
theorem next_eq {a t : State} (h : (Host.Outcome.next a : Result) = .next t) : t = a :=
  (Host.Outcome.next.inj h).symm

/-- CALL answers a next state only with an entry free (R102). -/
theorem execCall_next {nnn : Addr12} {t : State} (h : execCall nnn s = .next t) :
    s.sp.toNat < Config.stackDepth ∧
      t = ((s.stackWrite s.sp.toNat s.pc).setSp (s.sp + 1)).setPc (addrOperand nnn) := by
  unfold execCall at h
  split at h
  · exact nomatch h
  · next hs => exact ⟨Nat.not_le.mp hs, next_eq h⟩

/-- RET answers a next state only with an entry in use (R103). -/
theorem execRet_next {t : State} (h : execRet s = .next t) :
    0 < s.sp.toNat ∧ t = (s.setSp (s.sp - 1)).setPc (s.stackRead (s.sp.toNat - 1)) := by
  unfold execRet at h
  split at h
  · exact nomatch h
  · next hs =>
    exact ⟨Nat.pos_of_ne_zero fun e => hs (BitVec.eq_of_toNat_eq e), next_eq (checkRange_next _ h).2⟩

/-- A move in a state with the mark is none; otherwise it is `enabledMove` (R211). -/
theorem move_marked (m : Move) {f : Fault} (h : s.fault = some f) : move m s = .noMove := by
  simp [move, h]

theorem move_enabled (m : Move) (h : s.fault = none) : move m s = enabledMove m s := by
  simp [move, h]

end Sys2Proof.Machine
end

