-- ==== Sys2Proof/Laws/PerInstr.lean ====
section
/-! SUPPORT. Laws stated per instruction: every encoding has the fixed bits of its row of opcode_table.json. -/

namespace Sys2Proof.Laws.FixedBits

/-- The fixed bits of a row of opcode_table.json: the family, w[15:12], and the value of the word modulo
`span` (1 where no low bit is fixed, 16 or 256 for a sub-opcode, 4096 for a whole word). -/
structure Row where
  family : Nat
  span : Nat
  low : Nat
  deriving DecidableEq, Repr

/-- The row of an instruction, from "mask" and "match" of opcode_table.json. -/
def row : Instr → Row
  | .sys _ => ⟨0x0, 1, 0x00⟩
  | .cls => ⟨0x0, 4096, 0xE0⟩
  | .ret => ⟨0x0, 4096, 0xEE⟩
  | .jp _ => ⟨0x1, 1, 0x00⟩
  | .call _ => ⟨0x2, 1, 0x00⟩
  | .seByte _ _ => ⟨0x3, 1, 0x00⟩
  | .sneByte _ _ => ⟨0x4, 1, 0x00⟩
  | .seReg _ _ => ⟨0x5, 16, 0x00⟩
  | .ldByte _ _ => ⟨0x6, 1, 0x00⟩
  | .addByte _ _ => ⟨0x7, 1, 0x00⟩
  | .ldReg _ _ => ⟨0x8, 16, 0x00⟩
  | .orReg _ _ => ⟨0x8, 16, 0x01⟩
  | .andReg _ _ => ⟨0x8, 16, 0x02⟩
  | .xorReg _ _ => ⟨0x8, 16, 0x03⟩
  | .addReg _ _ => ⟨0x8, 16, 0x04⟩
  | .sub _ _ => ⟨0x8, 16, 0x05⟩
  | .shr _ _ => ⟨0x8, 16, 0x06⟩
  | .subn _ _ => ⟨0x8, 16, 0x07⟩
  | .shl _ _ => ⟨0x8, 16, 0x0E⟩
  | .sneReg _ _ => ⟨0x9, 16, 0x00⟩
  | .ldI _ => ⟨0xA, 1, 0x00⟩
  | .jpV0 _ => ⟨0xB, 1, 0x00⟩
  | .rnd _ _ => ⟨0xC, 1, 0x00⟩
  | .drw _ _ _ => ⟨0xD, 1, 0x00⟩
  | .skp _ => ⟨0xE, 256, 0x9E⟩
  | .sknp _ => ⟨0xE, 256, 0xA1⟩
  | .ldVxDt _ => ⟨0xF, 256, 0x07⟩
  | .ldVxK _ => ⟨0xF, 256, 0x0A⟩
  | .ldDtVx _ => ⟨0xF, 256, 0x15⟩
  | .ldStVx _ => ⟨0xF, 256, 0x18⟩
  | .addIVx _ => ⟨0xF, 256, 0x1E⟩
  | .ldFVx _ => ⟨0xF, 256, 0x29⟩
  | .ldBVx _ => ⟨0xF, 256, 0x33⟩
  | .storeRegs _ => ⟨0xF, 256, 0x55⟩
  | .loadRegs _ => ⟨0xF, 256, 0x65⟩

/-- The encoding of `i` has the family and the sub-opcode bits of its row. -/
def Statement (i : Instr) : Prop :=
  (encode i).toNat / 0x1000 = (row i).family ∧ (encode i).toNat % (row i).span = (row i).low

theorem encodeA_bits {f : Nat} (hf : f < 16) (nnn : Addr12) :
    (encodeA f nnn).toNat / 0x1000 = f ∧ (encodeA f nnn).toNat % 1 = 0 := by
  have := nnn.isLt
  simp only [encodeA, BitVec.toNat_ofNat]
  omega

theorem encodeXK_bits {f : Nat} (hf : f < 16) (x : Reg) (kk : Byte) :
    (encodeXK f x kk).toNat / 0x1000 = f ∧ (encodeXK f x kk).toNat % 256 = kk.toNat := by
  have := x.isLt
  have := kk.isLt
  simp only [encodeXK, BitVec.toNat_ofNat]
  omega

theorem encodeXY_bits {f : Nat} (hf : f < 16) (x y : Reg) (n : Fin 16) :
    (encodeXY f x y n).toNat / 0x1000 = f ∧ (encodeXY f x y n).toNat % 16 = n.val := by
  have := x.isLt
  have := y.isLt
  have := n.isLt
  simp only [encodeXY, BitVec.toNat_ofNat]
  omega

theorem sys (nnn : Addr12) : Statement (.sys nnn) := encodeA_bits (by decide) nnn
theorem cls : Statement (.cls) := ⟨rfl, rfl⟩
theorem ret : Statement (.ret) := ⟨rfl, rfl⟩
theorem jp (nnn : Addr12) : Statement (.jp nnn) := encodeA_bits (by decide) nnn
theorem call (nnn : Addr12) : Statement (.call nnn) := encodeA_bits (by decide) nnn
theorem seByte (x : Reg) (kk : Byte) : Statement (.seByte x kk) := ⟨(encodeXK_bits (by decide) x kk).1, Nat.mod_one _⟩
theorem sneByte (x : Reg) (kk : Byte) : Statement (.sneByte x kk) := ⟨(encodeXK_bits (by decide) x kk).1, Nat.mod_one _⟩
theorem seReg (x y : Reg) : Statement (.seReg x y) := encodeXY_bits (by decide) x y _
theorem ldByte (x : Reg) (kk : Byte) : Statement (.ldByte x kk) := ⟨(encodeXK_bits (by decide) x kk).1, Nat.mod_one _⟩
theorem addByte (x : Reg) (kk : Byte) : Statement (.addByte x kk) := ⟨(encodeXK_bits (by decide) x kk).1, Nat.mod_one _⟩
theorem ldReg (x y : Reg) : Statement (.ldReg x y) := encodeXY_bits (by decide) x y _
theorem orReg (x y : Reg) : Statement (.orReg x y) := encodeXY_bits (by decide) x y _
theorem andReg (x y : Reg) : Statement (.andReg x y) := encodeXY_bits (by decide) x y _
theorem xorReg (x y : Reg) : Statement (.xorReg x y) := encodeXY_bits (by decide) x y _
theorem addReg (x y : Reg) : Statement (.addReg x y) := encodeXY_bits (by decide) x y _
theorem sub (x y : Reg) : Statement (.sub x y) := encodeXY_bits (by decide) x y _
theorem shr (x y : Reg) : Statement (.shr x y) := encodeXY_bits (by decide) x y _
theorem subn (x y : Reg) : Statement (.subn x y) := encodeXY_bits (by decide) x y _
theorem shl (x y : Reg) : Statement (.shl x y) := encodeXY_bits (by decide) x y _
theorem sneReg (x y : Reg) : Statement (.sneReg x y) := encodeXY_bits (by decide) x y _
theorem ldI (nnn : Addr12) : Statement (.ldI nnn) := encodeA_bits (by decide) nnn
theorem jpV0 (nnn : Addr12) : Statement (.jpV0 nnn) := encodeA_bits (by decide) nnn
theorem rnd (x : Reg) (kk : Byte) : Statement (.rnd x kk) := ⟨(encodeXK_bits (by decide) x kk).1, Nat.mod_one _⟩
theorem drw (x y : Reg) (n : Fin 16) : Statement (.drw x y n) := ⟨(encodeXY_bits (by decide) x y n).1, Nat.mod_one _⟩
theorem skp (x : Reg) : Statement (.skp x) := encodeXK_bits (by decide) x _
theorem sknp (x : Reg) : Statement (.sknp x) := encodeXK_bits (by decide) x _
theorem ldVxDt (x : Reg) : Statement (.ldVxDt x) := encodeXK_bits (by decide) x _
theorem ldVxK (x : Reg) : Statement (.ldVxK x) := encodeXK_bits (by decide) x _
theorem ldDtVx (x : Reg) : Statement (.ldDtVx x) := encodeXK_bits (by decide) x _
theorem ldStVx (x : Reg) : Statement (.ldStVx x) := encodeXK_bits (by decide) x _
theorem addIVx (x : Reg) : Statement (.addIVx x) := encodeXK_bits (by decide) x _
theorem ldFVx (x : Reg) : Statement (.ldFVx x) := encodeXK_bits (by decide) x _
theorem ldBVx (x : Reg) : Statement (.ldBVx x) := encodeXK_bits (by decide) x _
theorem storeRegs (x : Reg) : Statement (.storeRegs x) := encodeXK_bits (by decide) x _
theorem loadRegs (x : Reg) : Statement (.loadRegs x) := encodeXK_bits (by decide) x _

end Sys2Proof.Laws.FixedBits
end

