-- ==== Sys2Proof/Tests/Slice0.lean ====
section
/-! SUPPORT. Tests: the well-formedness check, decoding of words written out from the encodings, one step or move at a time with the results of 95_test_vectors.md, and a witness for the hypotheses of every statement. -/

namespace Sys2Proof.Tests

open Sys2Proof.Machine

-- Each test is decided in the kernel; elaborated side by side, they would take a thread each.
set_option Elab.async false

/-! ## Well-formedness (R85) -/

theorem test_wellFormed_refuses_sys_0E0 : (Instr.sys 0x0E0).wellFormed = false := by decide
theorem test_wellFormed_refuses_sys_0EE : (Instr.sys 0x0EE).wellFormed = false := by decide
theorem test_wellFormed_accepts_neighbours :
    (Instr.sys 0x0E1).wellFormed = true ∧ (Instr.sys 0x1E0).wellFormed = true ∧
    (Instr.sys 0x000).wellFormed = true := by decide

/-! ## Decoding, words written out from the encodings of opcode_table.json -/

theorem test_decode_control :
    decode 0b0000000100100011 = .instr (.sys 0x123) ∧
    decode 0b0000000011101110 = .instr .ret ∧
    decode 0b0001001000001000 = .instr (.jp 0x208) ∧
    decode 0b0010001100000000 = .instr (.call 0x300) ∧
    decode 0b0011001100010000 = .instr (.seByte 3 0x10) ∧
    decode 0b0100001100010001 = .instr (.sneByte 3 0x11) ∧
    decode 0b0101000100100000 = .instr (.seReg 1 2) ∧
    decode 0b1001000100100000 = .instr (.sneReg 1 2) ∧
    decode 0b1011001100000000 = .instr (.jpV0 0x300) := by decide +kernel

theorem test_decode_alu :
    decode 0b0110101001000010 = .instr (.ldByte 0xA 0x42) ∧
    decode 0b0111000100000010 = .instr (.addByte 1 0x02) ∧
    decode 0b1000001001010000 = .instr (.ldReg 2 5) ∧
    decode 0b1000000000010001 = .instr (.orReg 0 1) ∧
    decode 0b1000000000010010 = .instr (.andReg 0 1) ∧
    decode 0b1000000000010011 = .instr (.xorReg 0 1) ∧
    decode 0b1000001101000100 = .instr (.addReg 3 4) ∧
    decode 0b1000000100100101 = .instr (.sub 1 2) ∧
    decode 0b1000000100100110 = .instr (.shr 1 2) ∧
    decode 0b1000000100100111 = .instr (.subn 1 2) ∧
    decode 0b1000000100101110 = .instr (.shl 1 2) ∧
    decode 0b1100001100001111 = .instr (.rnd 3 0x0F) := by decide +kernel

theorem test_decode_index_graphics_input :
    decode 0b1010001011110000 = .instr (.ldI 0x2F0) ∧
    decode 0b1111101000101001 = .instr (.ldFVx 0xA) ∧
    decode 0b0000000011100000 = .instr .cls ∧
    decode 0b1101000000010101 = .instr (.drw 0 1 5) ∧
    decode 0b1110001010011110 = .instr (.skp 2) ∧
    decode 0b1110001010100001 = .instr (.sknp 2) ∧
    decode 0b1111001100001010 = .instr (.ldVxK 3) := by decide +kernel

theorem test_decode_timers_misc :
    decode 0b1111010100000111 = .instr (.ldVxDt 5) ∧
    decode 0b1111010100010101 = .instr (.ldDtVx 5) ∧
    decode 0b1111010100011000 = .instr (.ldStVx 5) ∧
    decode 0b1111000100011110 = .instr (.addIVx 1) ∧
    decode 0b1111000000110011 = .instr (.ldBVx 0) ∧
    decode 0b1111001001010101 = .instr (.storeRegs 2) ∧
    decode 0b1111001001100101 = .instr (.loadRegs 2) := by decide +kernel

/-- Vectors DC3 to DC9. -/
theorem test_decode_rejects :
    decode 0x0000 = .instr (.sys 0x000) ∧ decode 0x01E0 = .instr (.sys 0x1E0) ∧
    decode 0x5121 = .ambiguous ∧ decode 0x9121 = .ambiguous ∧
    decode 0x8008 = .unrecognised ∧ decode 0x800C = .unrecognised ∧ decode 0x800F = .unrecognised ∧
    decode 0xE19F = .ambiguous ∧ decode 0xE1A2 = .ambiguous ∧ decode 0xE000 = .ambiguous ∧
    decode 0xF100 = .ambiguous ∧ decode 0xF1FF = .ambiguous ∧ decode 0xF156 = .ambiguous ∧
    decode 0xF166 = .ambiguous := by decide +kernel

theorem test_decodeTableWord :
    decodeTableWord 16 0x8344 = some (.addReg 3 4) ∧ decodeTableWord 16 0x8008 = none := by
  decide +kernel

/-! ## The states the tests start from -/

/-- One choice of every parameter; the machine after reset leaves the first two free. -/
def params : Params := ⟨.big, .flagLast, .vx, .decimal, .noop⟩

/-- The vectors' start state: after construction, `L = 0xCA0`. -/
def base : State := { State.reset with params := params, progLen := 0xCA0 }

/-- `base` with the other choice of every parameter. -/
def other : State := { base with params := ⟨.little, .resultLast, .vy, .referenceShift, .refuse⟩ }

/-- The step that runs `w` at `pc`. -/
def run (s : State) (w : Nat) : Result := step (s.withFetchWord 16 w)

/-- What `f` says of the next state, if there is one. -/
def after {α : Type} (r : Result) (f : State → α) : Option α :=
  match r with
  | .next t => some (f t)
  | .fault _ => none
  | .refused _ => none

/-- The fault, if the result is one. -/
def faultOf : Result → Option Fault
  | .next _ => none
  | .fault f => some f
  | .refused _ => none

/-- Registers set one after another. -/
def setV (s : State) (vs : List (Reg × Byte)) : State := vs.foldl (fun t p => t.writeV p.1 p.2) s

/-- What `f` says of the state a move leads to, if it is made. -/
def moved {α : Type} (r : MoveResult) (f : State → α) : Option α :=
  match r with
  | .done t _ => some (f t)
  | .faulted _ => none
  | .noMove => none
  | .refused _ => none

/-! ## The step (vectors ST1 to ST11) -/

theorem test_step_reset_ends : step State.reset = .next State.reset ∧ report State.reset = .ended :=
  ⟨rfl, rfl⟩

theorem test_step_ended_before_alignment :
    report { base with pc := 0x203, progLen := 2 } = .ended ∧
    stepStart { base with pc := 0x203, progLen := 2 } = .ended := by decide +kernel

theorem test_step_odd_below_program :
    faultOf (step { base with pc := 0x1FF, progLen := 4 }) = some (.pcMisaligned 0x1FF) ∧
    faultOf (step { base with pc := 0x1FE, progLen := 4 }) = some (.pcRange 0x1FE) := by decide +kernel

/-- ST10: an image of 3 bytes; the last word's second byte is the 0 past it. -/
theorem test_step_odd_length :
    after (step { (base.store 0x200 [0x60, 0x12, 0x61]) with pc := 0x202, progLen := 3 })
      (fun t => (t.readV 1, t.pc)) = some (0, 0x204) := by decide +kernel

theorem test_step_unrecognised :
    after (run base 0x8008) (fun t => t.pc) = some 0x202 ∧
    after (run other 0x8008) (fun t => t.pc) = some 0x202 := by decide +kernel

theorem test_step_ambiguous :
    after (run base 0x5121) (fun t => t.pc) = some 0x202 ∧
    after (run other 0x5121) (fun t => t.pc) = none := by decide +kernel

theorem test_move_marked :
    move .step { base with fault := some (.pcRange 0) } = .noMove ∧
    move .timerTick { base with fault := some (.pcRange 0) } = .noMove := ⟨rfl, rfl⟩

theorem test_move_sets_mark :
    move .step (base.withFetchWord 16 0x00EE) =
      .faulted ((base.withFetchWord 16 0x00EE).mark (.stackUnderflow 0x200 0x00EE)) := by
  decide +kernel

/-! ## Construction (vectors S1, S2) -/

theorem test_construct_glyphs :
    (List.range 5).map State.reset.byte = [0xF0, 0x90, 0x90, 0x90, 0xF0] ∧
    (List.range 6).map (fun k => State.reset.byte (0x04B + k)) = [0xF0, 0x80, 0xF0, 0x80, 0x80, 0] := by
  decide +kernel

theorem test_construct_image :
    (match construct Config.font params [0x12, 0x08] with
      | .ok s => some (s.byte 0x200, s.byte 0x201, s.pc, s.progLen.val)
      | .error _ => none) = some (0x12, 0x08, 0x200, 2) := by decide +kernel

/-! ## Control flow (vectors CF1 to CF24) -/

theorem test_sys :
    after (run base 0x0123) (fun t => t.pc) = some 0x202 ∧
    after (run other 0x0123) (fun t => t.pc) = none := by decide +kernel

theorem test_jp : after (run base 0x1208) (fun t => t.pc) = some 0x208 := by decide +kernel

/-- CF4, in both byte orders. -/
theorem test_call :
    after (run { base with pc := 0x204 } 0x2300) (fun t => (t.sp, t.pc, t.byte 0xEA0, t.byte 0xEA1)) =
      some (1, 0x300, 0x02, 0x06) ∧
    after (run { other with pc := 0x204 } 0x2300) (fun t => (t.byte 0xEA0, t.byte 0xEA1)) =
      some (0x06, 0x02) := by decide +kernel

/-- CF5 and CF6. -/
theorem test_call_depth :
    after (run { base with sp := 15 } 0x2300) (fun t => (t.sp, t.byte 0xEBE, t.byte 0xEBF)) =
      some (16, 0x02, 0x02) ∧
    faultOf (run { base with sp := 16 } 0x2300) = some (.stackOverflow 0x200 0x2300) := by
  decide +kernel

/-- CF9. -/
theorem test_ret :
    after (run { (base.store 0xEA0 [0x02, 0x06, 0x03, 0x10]) with sp := 2 } 0x00EE)
      (fun t => (t.sp, t.pc)) = some (1, 0x310) := by decide +kernel

theorem test_ret_underflow :
    faultOf (run base 0x00EE) = some (.stackUnderflow 0x200 0x00EE) := by decide +kernel

theorem test_seByte :
    after (run (setV base [(3, 0x10)]) 0x3310) (fun t => t.pc) = some 0x204 ∧
    after (run (setV base [(3, 0x10)]) 0x3311) (fun t => t.pc) = some 0x202 := by decide +kernel

theorem test_sneByte :
    after (run (setV base [(3, 0x10)]) 0x4311) (fun t => t.pc) = some 0x204 ∧
    after (run (setV base [(3, 0x10)]) 0x4310) (fun t => t.pc) = some 0x202 := by decide +kernel

theorem test_seReg :
    after (run (setV base [(1, 7), (2, 7)]) 0x5120) (fun t => t.pc) = some 0x204 ∧
    after (run (setV base [(1, 7), (2, 8)]) 0x5120) (fun t => t.pc) = some 0x202 := by decide +kernel

theorem test_sneReg :
    after (run (setV base [(1, 7), (2, 8)]) 0x9120) (fun t => t.pc) = some 0x204 ∧
    after (run (setV base [(1, 7)]) 0x9110) (fun t => t.pc) = some 0x202 := by decide +kernel

/-- CF20 and CF24. -/
theorem test_jpV0 :
    after (run (setV base [(0, 0xFF)]) 0xBFFF) (fun t => t.pc) = some 0x10FE ∧
    after (run (setV base [(5, 0x33)]) 0xB500) (fun t => t.pc) = some 0x500 := by decide +kernel

/-! ## Data movement and arithmetic (vectors AL1 to AL38) -/

theorem test_ldByte : after (run base 0x6A42) (fun t => t.readV 0xA) = some 0x42 := by decide +kernel

/-- AL3 and AL4. -/
theorem test_addByte :
    after (run (setV base [(1, 0xFF), (15, 0x55)]) 0x7102) (fun t => (t.readV 1, t.readV 15)) =
      some (0x01, 0x55) ∧
    after (run (setV base [(15, 0xFF)]) 0x7F01) (fun t => t.readV 15) = some 0 := by decide +kernel

theorem test_ldReg : after (run (setV base [(5, 0x33)]) 0x8250) (fun t => t.readV 2) = some 0x33 := by
  decide +kernel

theorem test_or :
    after (run (setV base [(0, 0xF0), (1, 0x0F), (15, 0x55)]) 0x8011)
      (fun t => (t.readV 0, t.readV 15)) = some (0xFF, 0x55) := by decide +kernel

theorem test_and :
    after (run (setV base [(0, 0xF0), (1, 0x3C)]) 0x8012) (fun t => t.readV 0) = some 0x30 := by
  decide +kernel

theorem test_xor :
    after (run (setV base [(0, 0xF0), (1, 0x3C)]) 0x8013) (fun t => t.readV 0) = some 0xCC ∧
    after (run (setV base [(0, 0x5A)]) 0x8003) (fun t => t.readV 0) = some 0 := by decide +kernel

/-- S4, AL11 and AL14. -/
theorem test_addReg :
    after (run (setV base [(1, 0xFF), (2, 0x02)]) 0x8124) (fun t => (t.readV 1, t.readV 15)) =
      some (0x01, 0x01) ∧
    after (run (setV base [(0, 0x7F), (1, 0x80)]) 0x8014) (fun t => (t.readV 0, t.readV 15)) =
      some (0xFF, 0x00) ∧
    after (run (setV base [(0, 0x01), (15, 0xFF)]) 0x80F4) (fun t => (t.readV 0, t.readV 15)) =
      some (0x00, 0x01) := by decide +kernel

/-- AL30, under both orders. -/
theorem test_addReg_vf :
    after (run (setV base [(15, 0x10), (1, 0x20)]) 0x8F14) (fun t => t.readV 15) = some 0x00 ∧
    after (run (setV other [(15, 0x10), (1, 0x20)]) 0x8F14) (fun t => t.readV 15) = some 0x30 := by
  decide +kernel

/-- S5, AL15 and AL17. -/
theorem test_sub :
    after (run (setV base [(1, 0x01), (2, 0x02)]) 0x8125) (fun t => (t.readV 1, t.readV 15)) =
      some (0xFF, 0x00) ∧
    after (run (setV base [(0, 0x05), (1, 0x05)]) 0x8015) (fun t => (t.readV 0, t.readV 15)) =
      some (0x00, 0x01) ∧
    after (run (setV base [(0, 0xFF)]) 0x8015) (fun t => (t.readV 0, t.readV 15)) =
      some (0xFF, 0x01) := by decide +kernel

/-- AL31, under both orders. -/
theorem test_sub_vf :
    after (run (setV base [(15, 0x10), (1, 0x01)]) 0x8F15) (fun t => t.readV 15) = some 0x01 ∧
    after (run (setV other [(15, 0x10), (1, 0x01)]) 0x8F15) (fun t => t.readV 15) = some 0x0F := by
  decide +kernel

/-- AL23 and AL24. -/
theorem test_subn :
    after (run (setV base [(0, 0x01), (1, 0x03)]) 0x8017) (fun t => (t.readV 0, t.readV 15)) =
      some (0x02, 0x01) ∧
    after (run (setV base [(0, 0x02), (1, 0x01)]) 0x8017) (fun t => (t.readV 0, t.readV 15)) =
      some (0xFF, 0x00) := by decide +kernel

/-- AL34, under both orders. -/
theorem test_subn_vf :
    after (run (setV base [(15, 0x01), (1, 0x03)]) 0x8F17) (fun t => t.readV 15) = some 0x01 ∧
    after (run (setV other [(15, 0x01), (1, 0x03)]) 0x8F17) (fun t => t.readV 15) = some 0x02 := by
  decide +kernel

/-- AL21 and AL22. -/
theorem test_shr :
    after (run (setV base [(0, 0xFF)]) 0x8016) (fun t => (t.readV 0, t.readV 15)) =
      some (0x7F, 0x01) ∧
    after (run (setV other [(0, 0x00), (1, 0x03)]) 0x8016) (fun t => (t.readV 0, t.readV 15)) =
      some (0x01, 0x01) := by decide +kernel

/-- AL27, AL28 and AL29. -/
theorem test_shl :
    after (run (setV base [(0, 0x81)]) 0x801E) (fun t => (t.readV 0, t.readV 15)) =
      some (0x02, 0x01) ∧
    after (run (setV base [(0, 0x7F)]) 0x801E) (fun t => (t.readV 0, t.readV 15)) =
      some (0xFE, 0x00) ∧
    after (run (setV other [(0, 0x00), (1, 0x81)]) 0x801E) (fun t => (t.readV 0, t.readV 15)) =
      some (0x02, 0x01) := by decide +kernel

/-- AL36 and AL38: the draw given. -/
theorem test_rnd_given_draw :
    (base.writeRandom 3 0x0F 0xA7).readV 3 = 0x07 ∧
    (base.writeRandom 3 0xFF 0x5A).readV 3 = 0x5A := by decide +kernel

/-- AL37, whatever the draw is. -/
theorem test_rnd_zero_mask (s : State) :
    after (exec (.rnd 3 0x00) s) (fun t => t.readV 3) = some 0 := by
  simp [exec, execRnd, State.writeRandom, State.setDraws, State.writeV, State.readV, after]

/-! ## The index register (vectors IX1 to IX10) -/

theorem test_ldI : after (run base 0xA2F0) (fun t => t.i) = some 0x02F0 := by decide +kernel

/-- IX5 and IX7. -/
theorem test_ldFVx :
    after (run (setV base [(0, 0x0F)]) 0xF029) (fun t => t.i) = some 0x004B ∧
    after (run (setV base [(0, 0xFF)]) 0xF029) (fun t => t.i) = some 0x04FB := by decide +kernel

/-- IX9 and IX10. -/
theorem test_addIVx :
    after (run { (setV base [(1, 1)]) with i := 0xFFFF } 0xF11E) (fun t => (t.i, t.readV 15)) =
      some (0x0000, 0x00) ∧
    after (run { (setV base [(1, 1)]) with i := 0x0FFF } 0xF11E) (fun t => t.i) = some 0x1000 := by
  decide +kernel

/-! ## Graphics (vectors G1 to G18) -/

theorem test_pixel_mapping :
    (pixelAddr 0 0, pixelBit 0 0) = (0xF00, 7) ∧ (pixelAddr 7 0, pixelBit 7 0) = (0xF00, 0) ∧
    (pixelAddr 8 0, pixelBit 8 0) = (0xF01, 7) ∧ (pixelAddr 0 1, pixelBit 0 1) = (0xF08, 7) ∧
    (pixelAddr 63 31, pixelBit 63 31) = (0xFFF, 0) ∧
    (pixelAddr 62 30, pixelBit 62 30) = (0xFF7, 1) := by decide +kernel

/-- S3. -/
theorem test_setPixel :
    Memory.setPixel [] 10 3 true = [(0xF19, 0x20)] ∧
    (Memory.setPixel [] 10 3 true).setPixel 10 3 false = [] := by decide +kernel

/-- G18. -/
theorem test_cls :
    after (run (setV (base.store 0xF00 [0xFF, 0x81]) [(15, 1)]) 0x00E0)
      (fun t => (t.byte 0xF00, t.byte 0xF01, t.readV 15)) = some (0, 0, 1) := by decide +kernel

/-- G7, G8 and G10. -/
theorem test_drw :
    after (run base 0xD011) (fun t => (t.byte 0xF00, t.readV 15)) = some (0xF0, 0) ∧
    after (run { (base.store 0xF00 [0xF0]) with i := 5 } 0xD011)
      (fun t => (t.byte 0xF00, t.readV 15)) = some (0xD0, 1) ∧
    after (run { (setV (base.store 0x300 [0xFF]) [(0, 3)]) with i := 0x300 } 0xD011)
      (fun t => (t.byte 0xF00, t.byte 0xF01, t.readV 15)) = some (0x1F, 0xE0, 0) := by decide +kernel

/-- G15, and G17 (x0 = 62, y0 = 30: two columns of two rows are drawn, and nothing wraps). -/
theorem test_drw_edges :
    faultOf (run { (setV base [(1, 0x1E)]) with i := 0xFFC } 0xD015) =
      some (.memRange 0x200 0xD015 0x1000) ∧
    after (run (setV base [(0, 0x7E), (1, 0x3E)]) 0xD015)
      (fun t => (t.byte 0xFF7, t.byte 0xFFF, t.byte 0xF00, t.byte 0xFF0, t.readV 15)) =
      some (0x03, 0x02, 0, 0, 0) := by decide +kernel

/-! ## Input (vectors IN1 to IN16) -/

/-- IN1 and IN2. -/
theorem test_skp :
    after (run ((setV base [(2, 5)]).setKey 5 true) 0xE29E) (fun t => (t.pc, t.key 5)) =
      some (0x204, false) ∧
    after (run (setV base [(2, 5)]) 0xE29E) (fun t => t.pc) = some 0x202 := by decide +kernel

/-- IN4, IN5 and IN7. -/
theorem test_sknp :
    after (run (setV base [(2, 5)]) 0xE2A1) (fun t => t.pc) = some 0x204 ∧
    after (run ((setV base [(2, 5)]).setKey 5 true) 0xE2A1) (fun t => (t.pc, t.key 5)) =
      some (0x202, false) ∧
    faultOf (run (setV base [(2, 0xFF)]) 0xE2A1) = some (.keyRange 0x200 0xE2A1 0xFF) := by
  decide +kernel

/-- IN8. -/
theorem test_ldVxK :
    after (run base 0xF30A) (fun t => (t.wait.flag, t.wait.reg, t.pc, t.readV 3)) =
      some (true, 3, 0x202, 0) := by decide +kernel

/-- IN10 and IN12. -/
theorem test_resolveWait :
    moved (move (.resolveWait 0xC) { base with wait := ⟨true, 3⟩ })
      (fun t => (t.readV 3, t.wait.flag, t.wait.reg)) = some (0x0C, false, 3) ∧
    move (.resolveWait 16) { base with wait := ⟨true, 3⟩ } = .refused .hostPrecondition := by
  decide +kernel

/-- IN13 and IN14. -/
theorem test_setKey :
    moved (move (.setKey 4 true) { base with wait := ⟨true, 3⟩ }) (fun t => (t.key 4, t.wait.flag)) =
      some (true, true) ∧
    move (.setKey 16 true) base = .refused .hostPrecondition := by decide +kernel

/-- S3 and IN16. -/
theorem test_readPixel :
    move (.readPixel 10 3) (base.store 0xF19 [0x20]) =
      .done (base.store 0xF19 [0x20]) (.pixel true) ∧
    move (.readPixel 64 0) base = .refused .hostPrecondition := by decide +kernel

/-! ## Timers (vectors TM1 to TM8) -/

theorem test_ldVxDt : after (run { base with dt := 0x3C } 0xF507) (fun t => t.readV 5) = some 0x3C := by
  decide +kernel

theorem test_ldDtVx : after (run (setV base [(5, 0x3C)]) 0xF515) (fun t => (t.dt, t.st)) = some (0x3C, 0) := by
  decide +kernel

theorem test_ldStVx : after (run (setV base [(5, 0x02)]) 0xF518) (fun t => (t.dt, t.st)) = some (0, 0x02) := by
  decide +kernel

/-- TM4 and TM7. -/
theorem test_timerTick :
    moved (move .timerTick { base with dt := 2, st := 0 }) (fun t => (t.dt, t.st)) = some (1, 0) ∧
    moved (move .timerTick { base with dt := 0xFF, st := 3 }) (fun t => (t.dt, t.st)) =
      some (0xFE, 2) := by decide +kernel

/-! ## BCD and block transfers (vectors M1 to M17) -/

/-- M6, and M1 under REFERENCE_SHIFT. -/
theorem test_ldBVx :
    after (run { (setV base [(0, 0x7B)]) with i := 0xFFD } 0xF033)
      (fun t => (t.byte 0xFFD, t.byte 0xFFE, t.byte 0xFFF)) = some (1, 2, 3) ∧
    after (run { (setV other [(0, 0xFF)]) with i := 0x300 } 0xF033)
      (fun t => (t.byte 0x300, t.byte 0x301, t.byte 0x302, t.i)) = some (0x00, 0x0F, 0xFF, 0x300) := by
  decide +kernel

/-- M7. -/
theorem test_ldBVx_range :
    faultOf (run { base with i := 0xFFE } 0xF033) = some (.memRange 0x200 0xF033 0x1000) := by
  decide +kernel

/-- M10 and M11. -/
theorem test_storeRegs :
    after (run { (setV base [(0, 1), (1, 2)]) with i := 0xFFE } 0xF155)
      (fun t => (t.byte 0xFFE, t.byte 0xFFF, t.i)) = some (1, 2, 0x1000) ∧
    faultOf (run { base with i := 0xFFE } 0xF255) = some (.memRange 0x200 0xF255 0x1000) := by
  decide +kernel

/-- M12 and M17. -/
theorem test_loadRegs :
    after (run { (base.store 0x300 [1, 2, 3, 4]) with i := 0x300 } 0xF265)
      (fun t => (t.readV 0, t.readV 1, t.readV 2, t.readV 3, t.i)) = some (1, 2, 3, 0, 0x303) ∧
    faultOf (run { base with i := 0x1000 } 0xF065) = some (.memRange 0x200 0xF065 0x1000) := by
  decide +kernel

/-! ## Memory's canonical form -/

theorem test_memory_canonical :
    Memory.write (Memory.write [] 0x300 5) 0x300 0 = [] ∧
    Memory.write (Memory.write [] 0x301 5) 0x300 6 = [(0x300, 6), (0x301, 5)] ∧
    Memory.write [] 0x000 0xF0 = [] ∧ Memory.write [] 0x000 0 = [(0x000, 0)] := by decide +kernel

/-! ## Witnesses: states and operands that meet the hypotheses of each statement

One theorem a statement, with a conjunct for each clause, at the boundary of its range where it has one. -/

theorem witness_DecodeOfEncodeIsIdentity :
    (Instr.sys 0x0E1).wellFormed = true ∧ (Instr.sys 0x0EF).wellFormed = true ∧
    (Instr.drw 15 15 15).wellFormed = true := by decide

theorem witness_DecodedWordIsItsEncoding :
    decode 0x00E1 = .instr (.sys 0x0E1) ∧ decode 0xFF65 = .instr (.loadRegs 15) := by decide +kernel

theorem witness_DecodeRejectsExactlyTheListedWords :
    decode 0x800D = .unrecognised ∧ decode 0x800E = .instr (.shl 0 0) ∧
    decode 0x5001 = .ambiguous ∧ decode 0x9FFF = .ambiguous ∧ decode 0xEFFF = .ambiguous ∧
    decode 0xF066 = .ambiguous := by decide +kernel

/-- `base` with a jump placed at `pc`. -/
def atJump : State := base.withFetchWord 16 0x1208

theorem atJump_fetches : atJump.Fetches := by unfold State.Fetches; decide +kernel

theorem witness_StepRunsDecodedInstruction :
    atJump.Fetches ∧
    decode (wordOfBytes (atJump.byte atJump.pc.toNat) (atJump.byte (atJump.pc.toNat + 1))) =
      .instr (.jp 0x208) := ⟨atJump_fetches, by decide +kernel⟩

theorem witness_WordsThatAreNoInstruction :
    (base.withFetchWord 16 0x8008).Fetches ∧
    decode (base.withFetchWord 16 0x8008).fetchWord = .unrecognised ∧
    (base.withFetchWord 16 0xF100).Fetches ∧
    decode (base.withFetchWord 16 0xF100).fetchWord = .ambiguous ∧
    (base.withFetchWord 16 0xF100).params.ambiguousWordPolicy = .noop ∧
    (other.withFetchWord 16 0xF100).Fetches ∧
    decode (other.withFetchWord 16 0xF100).fetchWord = .ambiguous ∧
    (other.withFetchWord 16 0xF100).params.ambiguousWordPolicy = .refuse := by
  unfold State.Fetches; decide +kernel

/-- Blocked past the program's end too, ended at its end, and going on at its last byte. -/
theorem witness_BlockedAndEndedStepsChangeNothing :
    (let s : State := { base with wait := ⟨true, 3⟩, pc := 0x202, progLen := 2 };
      s.fault = none ∧ s.wait.flag = true) ∧
    (let s : State := { base with pc := 0x202, progLen := 2 };
      s.fault = none ∧ s.wait.flag = false ∧ 0x200 + s.progLen.val ≤ s.pc.toNat) ∧
    (let s : State := { base with pc := 0x201, progLen := 2 };
      s.fault = none ∧ s.wait.flag = false ∧ s.pc.toNat < 0x200 + s.progLen.val) := by
  decide +kernel

theorem witness_FetchFaults :
    (let s : State := { base with pc := 0x201 };
      s.fault = none ∧ s.wait.flag = false ∧ s.pc.toNat < 0x200 + s.progLen.val ∧
        s.pc.toNat % 2 = 1) ∧
    (let s : State := { base with pc := 0x1FE };
      s.fault = none ∧ s.wait.flag = false ∧ s.pc.toNat < 0x200 + s.progLen.val ∧
        s.pc.toNat % 2 = 0 ∧ s.pc.toNat < 0x200) := by decide +kernel

theorem witness_FaultMarkIsTheOnlyChangeAndSticks :
    ({ base with pc := 0x201 } : State).fault = none ∧
    step { base with pc := 0x201 } = .fault (.pcMisaligned 0x201) ∧
    (base.setFault (some (.pcRange 0x100))).fault = some (.pcRange 0x100) := ⟨rfl, rfl, rfl⟩

theorem witness_ProgramCounterAfterAStep :
    (step State.reset = .next State.reset ∧ ¬ State.reset.Fetches) ∧
    (atJump.Fetches ∧ ∃ t, step atJump = .next t) ∧
    (∃ t, move .step { base with pc := 0x201 } = .faulted t) :=
  ⟨⟨rfl, by unfold State.Fetches; decide +kernel⟩, ⟨atJump_fetches, _, rfl⟩, _, rfl⟩

/-- The first and the last even `pc` of the program region. -/
theorem witness_PlacedWordRunsNext :
    (State.reset.pc.toNat % 2 = 0 ∧ 0x200 ≤ State.reset.pc.toNat ∧
      State.reset.pc.toNat ≤ 0xE9E) ∧
    (let s : State := { base with pc := 0xE9E };
      s.pc.toNat % 2 = 0 ∧ 0x200 ≤ s.pc.toNat ∧ s.pc.toNat ≤ 0xE9E) := by decide +kernel

/-- An image of exactly the capacity, and an address of each clause. -/
theorem witness_ConstructionGivesTheListedState :
    (List.replicate 0xCA0 (0xFF : Byte)).length ≤ 0xCA0 ∧
    (79 < 80 ∧ 80 ≤ 80 ∧ 0x1FF < 0x200) ∧ (0xC9F < (List.replicate 0xCA0 (0xFF : Byte)).length) ∧
    (0x200 + (List.replicate 0xCA0 (0xFF : Byte)).length ≤ 0xEA0 ∧ 0xEA0 ≤ 0xFFF) := by
  rw [List.length_replicate]; decide

theorem witness_StepKeepsInvariant : atJump.Inv ∧ ∃ t, step atJump = .next t :=
  ⟨by unfold State.Inv; decide +kernel, _, rfl⟩

theorem witness_EverySchedulePreservesInvariant :
    base.Inv ∧ (∃ t r, runMoves [.setKey 3 true, .timerTick, .step] base = .done t r) ∧
    (∃ t, runMoves [.timerTick, .step] { base with pc := 0x201 } = .faulted t) :=
  ⟨by unfold State.Inv; decide +kernel, ⟨_, _, rfl⟩, _, rfl⟩

theorem witness_SysFollowsPolicy :
    base.params.ambiguousWordPolicy = .noop ∧ other.params.ambiguousWordPolicy = .refuse :=
  ⟨rfl, rfl⟩

theorem witness_CallPushesReturnAddressAndJumps :
    (let s : State := { base with sp := 15 };
      s.sp.toNat < 16 ∧ s.params.stackByteOrder = .big) ∧
    (let s : State := { other with sp := 15 };
      s.sp.toNat < 16 ∧ s.params.stackByteOrder = .little) ∧
    (16 ≤ ({ base with sp := 16 } : State).sp.toNat) := by decide +kernel

theorem witness_ReturnPopsIntoPc :
    (let s : State := { base with sp := 1 };
      1 ≤ s.sp.toNat ∧ s.sp.toNat ≤ 16 ∧ s.params.stackByteOrder = .big) ∧
    (let s : State := { other with sp := 16 };
      1 ≤ s.sp.toNat ∧ s.sp.toNat ≤ 16 ∧ s.params.stackByteOrder = .little) ∧
    base.sp.toNat = 0 := by decide +kernel

/-- After the CALL, in between with other values in the registers and I. -/
theorem witness_ReturnUndoesCall :
    ∃ t u : State, exec (.call 0x300) { base with sp := 15 } = .next t ∧ u.sp = t.sp ∧
      u.params = t.params ∧ u.byte (stackEntry 15) = t.byte (stackEntry 15) ∧
      u.byte (stackEntry 15 + 1) = t.byte (stackEntry 15 + 1) ∧ u ≠ t :=
  ⟨_, setV { (after (exec (.call 0x300) { base with sp := 15 }) id).getD base with i := 5 } [(3, 7)],
    rfl, by decide +kernel, by decide +kernel, by decide +kernel, by decide +kernel,
    by decide +kernel⟩

/-- The clauses of `ResultAndFlag`: destination VE, and VF under each order. -/
theorem witness_AddWritesSumAndCarry :
    ((14 : Reg) ≠ VF) ∧ base.params.vfWriteOrder = .flagLast ∧
    other.params.vfWriteOrder = .resultLast := by decide

theorem witness_SubtractWritesDifferenceAndNotBorrow :
    ((0 : Reg) ≠ VF) ∧ base.params.vfWriteOrder = .flagLast ∧
    other.params.vfWriteOrder = .resultLast := by decide

theorem witness_ShiftsWriteResultAndShiftedOutBit :
    (base.params.shiftSource = .vx ∧ (4 : Reg) = 4) ∧
    (other.params.shiftSource = .vy ∧ (15 : Reg) = 15) := by decide

/-- The last address in range and the first out of it, in both modes, and `I` past memory. -/
theorem witness_BcdStoresThreeBytes :
    (({ base with i := 0xFFD } : State).effAddr + 2 ≤ 0xFFF ∧ base.params.bcdMode = .decimal) ∧
    (({ other with i := 0xFFD } : State).effAddr + 2 ≤ 0xFFF ∧
      other.params.bcdMode = .referenceShift) ∧
    0xFFF < ({ base with i := 0xFFE } : State).effAddr + 2 ∧
    0xFFF < ({ base with i := 0xFFFF } : State).effAddr + 2 := by decide +kernel

theorem witness_BulkStore :
    (({ base with i := 0xFF0 } : State).effAddr + (15 : Reg).val ≤ 0xFFF ∧ (15 : Reg) ≤ 15) ∧
    (({ base with i := 0xFFF } : State).effAddr + (0 : Reg).val ≤ 0xFFF ∧ (0 : Reg) ≤ 0) ∧
    0xFFF < ({ base with i := 0xFFF } : State).effAddr + (1 : Reg).val ∧
    0xFFF < ({ base with i := 0x1000 } : State).effAddr + (0 : Reg).val := by decide +kernel

theorem witness_BulkLoad :
    (({ base with i := 0xFF0 } : State).i.toNat + (15 : Reg).val ≤ 0xFFF ∧ (15 : Reg) ≤ 15) ∧
    (({ base with i := 0xFFF } : State).i.toNat + (0 : Reg).val ≤ 0xFFF ∧ (0 : Reg) < 1) ∧
    0xFFF < ({ base with i := 0xFFF } : State).i.toNat + (1 : Reg).val ∧
    0xFFF < ({ base with i := 0x1000 } : State).i.toNat + (0 : Reg).val := by decide +kernel

/-- A block that ends at the last address, the registers zeroed in between. -/
theorem witness_BulkRoundTrip :
    ∃ t u : State, exec (.storeRegs 1) { (setV base [(0, 1), (1, 2)]) with i := 0xFFE } = .next t ∧
      u.i = 0xFFE ∧ (∀ r, r ≤ (1 : Reg) → u.byte (0xFFE + r.val) = t.byte (0xFFE + r.val)) ∧
      u.readV 0 = 0 :=
  ⟨_, { base with i := 0xFFE, mem := [(0xFFE, 1), (0xFFF, 2)] }, rfl, rfl, by decide +kernel,
    by decide +kernel⟩

theorem witness_FetchSeesEarlierStore :
    ∃ t u : State, 14 + 1 < 16 ∧ 14 + 1 ≤ (15 : Reg).val ∧
      exec (.storeRegs 15) { base with i := 0x300 } = .next t ∧ u.mem = t.mem ∧
      u.pc.toNat = 0x300 + 14 :=
  ⟨_, { (after (exec (.storeRegs 15) { base with i := 0x300 }) id).getD base with pc := 0x30E },
    by decide, by decide, rfl, rfl, rfl⟩

/-- The first pixel and the last, another bit and another byte. -/
theorem witness_SetPixelChangesOneBit :
    (0 < 64 ∧ 0 < 32 ∧ 0xF00 = 0xF00 + (64 * 0 + 0) / 8 ∧ 7 = 7 - (64 * 0 + 0) % 8) ∧
    (63 < 64 ∧ 31 < 32 ∧ 0xFFF = 0xF00 + (64 * 31 + 63) / 8 ∧ 0 = 7 - (64 * 31 + 63) % 8 ∧
      7 < 8 ∧ 7 ≠ 0 ∧ 0xFFE ≠ 0xFFF) := by decide

/-- No rows with `I` past memory, a row at 0xFFF, and one row more. -/
theorem witness_DrawFrameAndRangeFault :
    ((0 : Fin 16).val = 0 ∧ ({ base with i := 0xFFFF } : State).effAddr = 0xFFFF) ∧
    ({ base with i := 0xFFF } : State).effAddr + (1 : Fin 16).val - 1 ≤ 0xFFF ∧
    (0 < (2 : Fin 16).val ∧ 0xFFF < ({ base with i := 0xFFF } : State).effAddr + (2 : Fin 16).val - 1) := by
  decide +kernel

theorem witness_DrawAddsOneRow :
    (14 + 1 < 16 ∧ ({ base with i := 0xFF1 } : State).effAddr + 14 ≤ 0xFFF) ∧
    (0 + 1 < 16 ∧ ({ base with i := 0xFFF } : State).effAddr + 0 ≤ 0xFFF) := by decide +kernel

theorem witness_DrawXorsSpriteAndReportsCollision :
    ({ base with i := 0xEF1 } : State).effAddr + (15 : Fin 16).val ≤ 0xF00 ∧
    ({ base with i := 0xF00 } : State).effAddr + (0 : Fin 16).val ≤ 0xF00 := by decide +kernel

/-- The glyph of 0 on a clear display, the second draw with VF as the first left it: both clauses. -/
theorem witness_DrawTwiceRestoresDisplay :
    base.effAddr + (5 : Fin 16).val ≤ 0xF00 ∧
    (∃ t u : State, exec (.drw 0 1 5) base = .next t ∧ u.mem = t.mem ∧ u.i = base.i ∧
      u.readV 0 = base.readV 0 ∧ u.readV 1 = base.readV 1 ∧
      (∃ px < 64, ∃ py < 32, base.mem.pixel px py = false ∧ t.mem.pixel px py = true)) ∧
    (∀ px < 64, ∀ py < 32, base.mem.pixel px py = false) :=
  ⟨by decide +kernel, ⟨_, _, rfl, rfl, by decide +kernel, by decide +kernel, by decide +kernel,
    0, by decide, 0, by decide, by decide +kernel, by decide +kernel⟩, by decide +kernel⟩

/-- The last key, and the first value that names none. -/
theorem witness_KeySkipsConsumeTheKey :
    ((setV base [(2, 15)]).readV 2).toNat = (15 : Fin 16).val ∧ ((14 : Fin 16) ≠ 15) ∧
    15 < ((setV base [(2, 16)]).readV 2).toNat := by decide +kernel

theorem witness_KeyWaitSetsLatch : base.fault = none := rfl

theorem witness_OnlyResolveWaitClearsLatch :
    (let s : State := { base with wait := ⟨true, 15⟩ };
      s.fault = none ∧ s.wait.flag = true ∧
      ∃ t, move (.resolveWait 15) s = .done t .nothing ∧ t.wait.flag = false) :=
  ⟨rfl, rfl, _, rfl, rfl⟩

theorem witness_SetKeyWritesOneKey :
    base.fault = none ∧ 15 < 16 ∧ (14 : Fin 16).val ≠ 15 ∧ 15 < 16 := by decide

theorem witness_ResolveWaitWritesTargetAndClearsLatch :
    (let s : State := { base with wait := ⟨true, 15⟩ };
      s.fault = none ∧ s.wait.flag = true ∧ 15 < 16) ∧
    (base.fault = none ∧ base.wait.flag = false) ∧
    (let s : State := { base with wait := ⟨true, 15⟩ };
      s.fault = none ∧ s.wait.flag = true ∧ 15 < 16) := by decide

theorem witness_TimerTickCountsDown :
    base.fault = none ∧ ({ base with dt := 0xFF, wait := ⟨true, 0⟩ } : State).fault = none := ⟨rfl, rfl⟩

theorem witness_ReadPixelReturnsBit :
    base.fault = none ∧ (63 < 64 ∧ 31 < 32) ∧ 64 ≤ 64 ∧ 32 ≤ 32 := by decide

/-- One instruction for each register that may change. -/
theorem witness_SpecialRegistersHaveNamedWriters :
    (∃ t, exec (.call 0x300) base = .next t ∧ t.sp ≠ base.sp) ∧
    (∃ t, exec .ret { base with sp := 16 } = .next t ∧ t.sp ≠ 16) ∧
    (∃ t, exec (.ldDtVx 5) (setV base [(5, 1)]) = .next t ∧ t.dt ≠ 0) ∧
    (∃ t, exec (.ldStVx 5) (setV base [(5, 1)]) = .next t ∧ t.st ≠ 0) ∧
    (∃ t, exec (.ldVxK 0) base = .next t ∧ t.wait ≠ base.wait) ∧
    (∃ t, exec (.skp 0) (base.setKey 0 true) = .next t ∧ t.keys ≠ (base.setKey 0 true).keys) ∧
    (∃ t, exec (.ldI 1) base = .next t ∧ t.i ≠ base.i) ∧
    (∃ t, exec (.rnd 0 0) base = .next t ∧ t.draws ≠ base.draws) :=
  ⟨⟨_, rfl, by decide +kernel⟩, ⟨_, rfl, by decide +kernel⟩, ⟨_, rfl, by decide +kernel⟩,
    ⟨_, rfl, by decide +kernel⟩, ⟨_, rfl, by decide +kernel⟩, ⟨_, rfl, by decide +kernel⟩,
    ⟨_, rfl, by decide +kernel⟩, ⟨_, rfl, by decide⟩⟩

theorem witness_MemoryChangesOnlyWhereStored :
    (∃ t, exec (.storeRegs 0) { base with i := 0x300 } = .next t) ∧
    ¬ StoresTo (.storeRegs 0) { base with i := 0x300 } 0x301 ∧
    StoresTo (.storeRegs 0) { base with i := 0x300 } 0x300 :=
  ⟨⟨_, rfl⟩, by unfold StoresTo; decide +kernel, by unfold StoresTo; decide +kernel⟩

theorem witness_RegistersChangeOnlyAsDestination :
    (∃ t, exec (.loadRegs 14) base = .next t) ∧ ¬ WritesReg (.loadRegs 14) 15 ∧
    WritesReg (.loadRegs 14) 14 :=
  ⟨⟨_, rfl⟩, by unfold WritesReg; decide, by unfold WritesReg; decide⟩

theorem witness_OnlySetKeyPressesAKey :
    ∃ t r, move (.setKey 15 true) base = .done t r ∧ base.key 15 = false ∧ t.key 15 = true :=
  ⟨_, _, rfl, by decide +kernel, by decide +kernel⟩

/-- A tick, and a step that loads the timer. -/
theorem witness_DelayTimerChangesOnlyByTickOrLoad :
    (∃ t r, move .timerTick { base with dt := 1 } = .done t r ∧ t.dt ≠ 1) ∧
    (∃ t r, move .step ((setV base [(5, 1)]).withFetchWord 16 0xF515) = .done t r ∧ t.dt ≠ 0) :=
  ⟨⟨_, _, rfl, by decide +kernel⟩, _, _, rfl, by decide +kernel⟩

/-- Both sides of the equivalence hold at reset, and neither while blocked. -/
theorem witness_RunEndsExactlyAtEndedReport :
    State.reset.Ended ∧ move .step State.reset = .done State.reset (.report .ended) ∧
    ¬ ({ State.reset with wait := ⟨true, 0⟩ } : State).Ended :=
  ⟨⟨rfl, by decide, rfl⟩, rfl, fun h => nomatch h.1⟩

end Sys2Proof.Tests
end

section
/-! ## The program counter after a step (R26) -/

namespace Sys2Proof.Machine

variable {s t : State}

@[simp] theorem State.afterFetch_pc (s : State) : s.afterFetch.pc = s.pc + 2 := rfl
@[simp] theorem State.afterFetch_sp (s : State) : s.afterFetch.sp = s.sp := rfl
@[simp] theorem State.readV_afterFetch (s : State) (q : Reg) : s.afterFetch.readV q = s.readV q := rfl
@[simp] theorem State.key_afterFetch (s : State) (q : Fin 16) : s.afterFetch.key q = s.key q := rfl
@[simp] theorem State.stackRead_afterFetch (s : State) (k : Nat) :
    s.afterFetch.stackRead k = s.stackRead k := rfl

/-- NNN + V0 does not overflow 16 bits, so the target of JP V0 is the exact sum (R108). -/
theorem toNat_addrOperand_add_wide (nnn : Addr12) (b : Byte) :
    (addrOperand nnn + wide b).toNat = nnn.toNat + b.toNat := by
  have hn := nnn.isLt
  have hb := b.isLt
  rw [BitVec.toNat_add, toNat_addrOperand, toNat_wide]
  omega

/-- CALL jumps to NNN and has pushed the address past itself (R102). -/
theorem pcAfter_call {nnn : Addr12} (h : execCall nnn s.afterFetch = .next t) :
    PcAfter (.instr (.call nnn)) s t := by
  obtain ⟨hsp, rfl⟩ := execCall_next h
  refine ⟨toNat_addrOperand nnn, ?_⟩
  simpa using State.stackRead_stackWrite s.afterFetch s.sp.toNat (s.pc + 2) hsp

theorem pcAfter_ret (h : execRet s.afterFetch = .next t) : PcAfter (.instr .ret) s t := by
  obtain ⟨-, rfl⟩ := execRet_next h
  simp [PcAfter]

/-- What a key skip that goes on does to `pc`: the key exists, and its state decides. -/
theorem keySkip_afterFetch_pc {i : Instr} {x : Reg} {c : Bool}
    (h : keySkip i x c s.afterFetch = .next t) :
    ∃ k : Fin 16, k.val = (s.readV x).toNat ∧
      t.pc = if s.key k = c then s.pc + 4 else s.pc + 2 := by
  obtain ⟨k, hk, rfl⟩ := keySkip_next _ h
  exact ⟨k, hk, by simp [BitVec.add_assoc]⟩

theorem pcAfter_skp {x : Reg} (h : execSkp x s.afterFetch = .next t) :
    PcAfter (.instr (.skp x)) s t :=
  keySkip_afterFetch_pc h

theorem pcAfter_sknp {x : Reg} (h : execSknp x s.afterFetch = .next t) :
    PcAfter (.instr (.sknp x)) s t := by
  obtain ⟨k, hk, hpc⟩ := keySkip_afterFetch_pc h
  exact ⟨k, hk, by cases hkey : s.key k <;> simpa [hkey] using hpc⟩

/-- The table of R26: jumps, CALL, RET and the skips each by their rule, the rest by `pc + 2`. -/
theorem pcAfter_of_exec {i : Instr} (h : exec i s.afterFetch = .next t) :
    PcAfter (.instr i) s t := by
  cases i with
  | jp nnn => rw [next_eq h]; exact toNat_addrOperand nnn
  | call nnn => exact pcAfter_call h
  | ret => exact pcAfter_ret h
  | jpV0 nnn => rw [next_eq h]; exact toNat_addrOperand_add_wide nnn (s.readV 0)
  | seByte | sneByte | seReg | sneReg => rw [next_eq h]; simp [PcAfter, BitVec.add_assoc]
  | skp x => exact pcAfter_skp h
  | sknp x => exact pcAfter_sknp h
  | sys nnn => rw [ambiguousWord_next _ h]; rfl
  | drw | ldBVx | storeRegs | loadRegs => rw [next_eq (checkRange_next _ h).2]; rfl
  | addReg | sub | shr | subn | shl => rw [next_eq h]; simp [PcAfter]
  | _ => rw [next_eq h]; rfl

/-- A word that is no instruction advances `pc` by 2 when its step goes on (R88, R89). -/
theorem pcAfter_of_execDecoded {d : Decoded} {w : Word}
    (h : execDecoded d w s.afterFetch = .next t) : PcAfter d s t := by
  cases d with
  | instr i => exact pcAfter_of_exec h
  | unrecognised => rw [next_eq h]; rfl
  | ambiguous => rw [ambiguousWord_next _ h]; rfl

/-- A step that goes on without a fetch reports BLOCKED or ENDED and changes nothing (R91). -/
theorem step_next_of_not_fetches (hf : ¬ s.Fetches) (h : step s = .next t) : t = s := by
  obtain rfl | ⟨hs, -⟩ := step_next h
  · rfl
  · exact absurd hs hf

/-- A move that faults marks the state it was made from and changes nothing else (R211, R215). -/
theorem moveResult_faulted {q : Reply} {o : Result} (h : moveResult s q o = .faulted t) :
    ∃ f, o = .fault f ∧ t = s.mark f := by
  cases o with
  | fault f => exact ⟨f, rfl, (MoveResult.faulted.inj h).symm⟩
  | next | refused => exact nomatch h

theorem move_step_faulted (h : move .step s = .faulted t) :
    ∃ f, step s = .fault f ∧ t = s.mark f := by
  cases hs : s.fault with
  | some f => rw [move_marked _ hs] at h; exact nomatch h
  | none => rw [move_enabled _ hs] at h; exact moveResult_faulted h

/-- Settles O10: a step that does not fetch changes nothing, one that fetches follows the table of R26
by the case of the decoded word, and a fault only marks the state. -/
theorem programCounterAfterAStep : Obligations.ProgramCounterAfterAStep := by
  refine ⟨fun s t h => ⟨fun hf => ?_, fun hf => ?_⟩, fun s t h => ?_⟩
  · rw [step_next_of_not_fetches hf h]
  · exact pcAfter_of_execDecoded (step_fetched hf ▸ h)
  · obtain ⟨f, -, rfl⟩ := move_step_faulted h
    rfl

end Sys2Proof.Machine
end

section
/-! ## What each move can do, and the input-wait latch (R33, R230 to R236) -/

namespace Sys2Proof.Machine

variable {s t : State} {r : Reply}

/-- A blocked step changes nothing, wherever `pc` stands (R33, R91). -/
theorem step_blocked (hf : s.fault = none) (hw : s.wait.flag = true) : step s = .next s := by
  simp [step, stepStart_blocked hf hw]

theorem report_blocked (hw : s.wait.flag = true) : report s = .blocked := by
  simp [report, hw]

theorem moveResult_done {q : Reply} {o : Result} (h : moveResult s q o = .done t r) :
    o = .next t ∧ r = q := by
  cases o with
  | next u => obtain ⟨rfl, rfl⟩ := MoveResult.done.inj h; exact ⟨rfl, rfl⟩
  | fault | refused => exact nomatch h

theorem hostSetKey_next {k : Nat} {b : Bool} (h : hostSetKey k b s = .next t) :
    ∃ hk : k < 16, t = s.setKey ⟨k, hk⟩ b := by
  unfold hostSetKey at h
  split at h
  · next hk => exact ⟨hk, next_eq h⟩
  · exact nomatch h

/-- A move that is made is made in a state without the mark (R211). -/
theorem move_done {m : Move} (h : move m s = .done t r) :
    s.fault = none ∧ enabledMove m s = .done t r := by
  cases hs : s.fault with
  | some f => rw [move_marked _ hs] at h; exact nomatch h
  | none => rw [move_enabled _ hs] at h; exact ⟨rfl, h⟩

theorem move_setKey_done {k : Nat} {b : Bool} (h : move (.setKey k b) s = .done t r) :
    ∃ hk : k < 16, t = s.setKey ⟨k, hk⟩ b :=
  hostSetKey_next (moveResult_done (move_done h).2).1

theorem move_timerTick_done (h : move .timerTick s = .done t r) : t = s.timerTick :=
  (MoveResult.done.inj (move_done h).2).1.symm

theorem move_readPixel_done {x y : Nat} (h : move (.readPixel x y) s = .done t r) : t = s := by
  have hr := (move_done h).2
  simp only [enabledMove] at hr
  split at hr
  · exact (MoveResult.done.inj hr).1.symm
  · exact nomatch hr

@[simp] theorem State.timerTick_wait (s : State) : s.timerTick.wait = s.wait := rfl

theorem exec_ldVxK (s : State) (x : Reg) :
    exec (.ldVxK x) s = .next (s.setWait { flag := true, reg := x }) := rfl

theorem move_step_blocked (hf : s.fault = none) (hw : s.wait.flag = true) :
    move .step s = .done s (.report .blocked) := by
  simp [move_enabled _ hf, enabledMove, step_blocked hf hw, report_blocked hw, moveResult]

/-- Every move of a blocked state but `resolve_wait` leaves the latch as it is: the step because it is
blocked, the host's others because they write elsewhere (R33, R230). -/
theorem move_done_wait {m : Move} (hw : s.wait.flag = true) (hm : ∀ k, m ≠ .resolveWait k)
    (h : move m s = .done t r) : t.wait = s.wait := by
  cases m with
  | step =>
    rw [move_step_blocked (move_done h).1 hw] at h
    rw [(MoveResult.done.inj h).1]
  | setKey k b => obtain ⟨-, rfl⟩ := move_setKey_done h; rfl
  | resolveWait k => exact absurd rfl (hm k)
  | timerTick => rw [move_timerTick_done h, State.timerTick_wait]
  | readPixel x y => rw [move_readPixel_done h]

/-- Settles O49: LD Vx, K writes the latch, a blocked step changes nothing, and a move that clears the
latch is no move that leaves it as it is. -/
theorem onlyResolveWaitClearsLatch : Obligations.OnlyResolveWaitClearsLatch := by
  refine ⟨fun s x => ⟨_, exec_ldVxK s x, rfl, rfl⟩, fun s hf hw => ⟨move_step_blocked hf hw, ?_⟩⟩
  intro m t r h hclear
  by_contra hm
  have hkept : t.wait = s.wait := move_done_wait hw (not_exists.mp hm) h
  rw [hkept, hw] at hclear
  exact nomatch hclear

end Sys2Proof.Machine
end

section
/-! ## Jumps and register skips (R101, R104 to R107) -/

namespace Sys2Proof.Machine

theorem exec_jp (s : State) (nnn : Addr12) :
    exec (.jp nnn) s = .next (s.setPc (addrOperand nnn)) := rfl

theorem exec_seByte (s : State) (x : Reg) (kk : Byte) :
    exec (.seByte x kk) s = .next (s.skipIf (s.readV x == kk)) := rfl

theorem exec_sneByte (s : State) (x : Reg) (kk : Byte) :
    exec (.sneByte x kk) s = .next (s.skipIf (s.readV x != kk)) := rfl

theorem exec_seReg (s : State) (x y : Reg) :
    exec (.seReg x y) s = .next (s.skipIf (s.readV x == s.readV y)) := rfl

theorem exec_sneReg (s : State) (x y : Reg) :
    exec (.sneReg x y) s = .next (s.skipIf (s.readV x != s.readV y)) := rfl

/-- A skip on a test `c` that decides `p` writes `pc` alone, by `p` (R24). -/
theorem State.skipIf_eq_of_iff (s : State) {c : Bool} {p : Prop} [Decidable p] (hc : c = true ↔ p) :
    s.skipIf c = { s with pc := if p then s.pc + 2 else s.pc } := by
  simp only [State.skipIf, State.setPc, hc]

/-- Settles O19: JP replaces `pc` by its operand, which widens without loss. -/
theorem jumpSetsPc : Obligations.JumpSetsPc :=
  fun s nnn => ⟨_, exec_jp s nnn, toNat_addrOperand nnn, rfl⟩

/-- Settles O21: each skip runs `skipIf` on the Boolean test that decides its condition. -/
theorem conditionalSkips : Obligations.ConditionalSkips := by
  intro s x y kk
  rw [exec_seByte, exec_sneByte, exec_seReg, exec_sneReg]
  exact ⟨congrArg _ (s.skipIf_eq_of_iff beq_iff_eq), congrArg _ (s.skipIf_eq_of_iff bne_iff_ne),
    congrArg _ (s.skipIf_eq_of_iff beq_iff_eq), congrArg _ (s.skipIf_eq_of_iff bne_iff_ne)⟩

end Sys2Proof.Machine
end

section
/-! ## Loads, sums and differences (R120 to R122, R126, R127, R129, R141, R190) -/

namespace Sys2Proof.Machine

variable (s : State)

/-! ### What each instruction does -/

theorem exec_ldByte (x : Reg) (kk : Byte) : exec (.ldByte x kk) s = .next (s.writeV x kk) := rfl

theorem exec_ldReg (x y : Reg) : exec (.ldReg x y) s = .next (s.writeV x (s.readV y)) := rfl

theorem exec_ldVxDt (x : Reg) : exec (.ldVxDt x) s = .next (s.writeV x s.dt) := rfl

theorem exec_addByte (x : Reg) (kk : Byte) :
    exec (.addByte x kk) s = .next (s.writeV x (s.readV x + kk)) := rfl

theorem exec_addReg (x y : Reg) :
    exec (.addReg x y) s = .next
      (s.writeResultFlag x (s.readV x + s.readV y) (carryFlag (s.readV x) (s.readV y))) := rfl

theorem exec_sub (x y : Reg) :
    exec (.sub x y) s = .next
      (s.writeResultFlag x (s.readV x - s.readV y) (noBorrowFlag (s.readV x) (s.readV y))) := rfl

theorem exec_subn (x y : Reg) :
    exec (.subn x y) s = .next
      (s.writeResultFlag x (s.readV y - s.readV x) (noBorrowFlag (s.readV y) (s.readV x))) := rfl

/-! ### The flags and the difference as numbers -/

theorem toNat_carryFlag (a b : Byte) :
    (carryFlag a b).toNat = if 255 < a.toNat + b.toNat then 1 else 0 := by
  by_cases h : 255 < a.toNat + b.toNat <;> simp [carryFlag, flagByte, h]

theorem toNat_noBorrowFlag (a b : Byte) :
    (noBorrowFlag a b).toNat = if a.toNat < b.toNat then 0 else 1 := by
  by_cases h : a.toNat < b.toNat <;> simp [noBorrowFlag, flagByte, h]

/-- The minuend comes first here, as in R127; `BitVec.toNat_sub` has it last. -/
theorem toNat_byteSub (a b : Byte) : (a - b).toNat = (a.toNat + 256 - b.toNat) % 256 := by
  have hb := b.isLt
  rw [BitVec.toNat_sub]
  omega

/-! ### Frames of the two register writes, and R141 -/

theorem State.writesOnlyRegs_writeV (x : Reg) (b : Byte) : WritesOnlyRegs [x] s (s.writeV x b) := by
  refine ⟨fun r hr => ?_, s.byte_writeV x b, by simp [SameSpecial]⟩
  exact s.readV_writeV_of_ne b (Ne.symm (List.ne_of_not_mem_cons hr))

theorem State.writesOnlyRegs_writeResultFlag (x : Reg) (res flag : Byte) :
    WritesOnlyRegs [x, VF] s (s.writeResultFlag x res flag) := by
  refine ⟨fun r hr => ?_, s.byte_writeResultFlag x res flag, by simp [SameSpecial]⟩
  obtain ⟨hx, hVF⟩ : r ≠ x ∧ r ≠ VF := by simpa using hr
  rw [State.readV_writeResultFlag, if_neg hVF, if_neg hx]

/-- `WriteResultFlag` keeps R141: two registers when X is not F, and VF by VF_WRITE_ORDER when it is. -/
theorem State.resultAndFlag_writeResultFlag (x : Reg) {res flag : Byte} {m n : Nat}
    (hres : res.toNat = m) (hflag : flag.toNat = n) :
    ResultAndFlag s (s.writeResultFlag x res flag) x m n := by
  refine ⟨fun hx => ⟨?_, ?_⟩, fun hx ho => ?_, fun hx ho => ?_⟩
  · simp [State.readV_writeResultFlag, hx, hres]
  · simp [State.readV_writeResultFlag, hx, hflag]
  · simp [State.readV_writeResultFlag, hx, ho, vfResult, hflag]
  · simp [State.readV_writeResultFlag, hx, ho, vfResult, hres]

/-! ### The obligations -/

/-- Settles O28: ADD is `WriteResultFlag` of the sum and the carry. -/
theorem addWritesSumAndCarry : Obligations.AddWritesSumAndCarry := fun s x y =>
  ⟨_, exec_addReg s x y,
    s.resultAndFlag_writeResultFlag x (BitVec.toNat_add _ _) (toNat_carryFlag _ _),
    s.writesOnlyRegs_writeResultFlag x _ _⟩

/-- Settles O29: SUB and SUBN are `WriteResultFlag` of a difference and its not-borrow, with the operands
exchanged. -/
theorem subtractWritesDifferenceAndNotBorrow : Obligations.SubtractWritesDifferenceAndNotBorrow :=
  fun s x y =>
    ⟨⟨_, exec_sub s x y,
      s.resultAndFlag_writeResultFlag x (toNat_byteSub _ _) (toNat_noBorrowFlag _ _),
      s.writesOnlyRegs_writeResultFlag x _ _⟩,
    ⟨_, exec_subn s x y,
      s.resultAndFlag_writeResultFlag x (toNat_byteSub _ _) (toNat_noBorrowFlag _ _),
      s.writesOnlyRegs_writeResultFlag x _ _⟩⟩

/-- Settles O25: each load is one write of V[X], which reads back. -/
theorem loadsCopyIntoVx : Obligations.LoadsCopyIntoVx := fun s x y kk =>
  ⟨⟨_, exec_ldByte s x kk, s.readV_writeV_self x kk, s.writesOnlyRegs_writeV x kk⟩,
    ⟨_, exec_ldReg s x y, s.readV_writeV_self x _, s.writesOnlyRegs_writeV x _⟩,
    ⟨_, exec_ldVxDt s x, s.readV_writeV_self x _, s.writesOnlyRegs_writeV x _⟩⟩

/-- Settles O26: ADD Vx, byte is one write of V[X], VF included when X = F, with the byte sum. -/
theorem addByteWrapsWithoutFlag : Obligations.AddByteWrapsWithoutFlag := by
  intro s x kk
  refine ⟨_, exec_addByte s x kk, ?_, s.writesOnlyRegs_writeV x _⟩
  rw [State.readV_writeV_self, BitVec.toNat_add]

end Sys2Proof.Machine
end

section
/-! ## The index register loaded with an address (R150) -/

namespace Sys2Proof.Machine

theorem exec_ldI (s : State) (nnn : Addr12) :
    exec (.ldI nnn) s = .next (s.setI (addrOperand nnn)) := rfl

/-- Settles O32: LD I replaces `I` by its operand, which widens without loss. -/
theorem loadIndexImmediate : Obligations.LoadIndexImmediate :=
  fun s nnn => ⟨_, exec_ldI s nnn, toNat_addrOperand nnn, rfl⟩

end Sys2Proof.Machine
end

section
/-! ## One pixel write, by byte and by bit (R160, R161) -/

namespace Sys2Proof.Machine

variable (m : Memory) {x y : Nat}

theorem read_setPixel_of_ne (on : Bool) {b : Nat} (hb : b ≠ pixelAddr x y) :
    (m.setPixel x y on).read b = m.read b :=
  Memory.read_write_of_ne m _ b _ hb.symm

/-- Every other bit of the pixel's byte stays (R161). -/
theorem getLsbD_setPixel_of_ne (on : Bool) (hx : x < 64) (hy : y < 32) {j : Nat} (hj : j < 8)
    (hne : j ≠ pixelBit x y) :
    ((m.setPixel x y on).read (pixelAddr x y)).getLsbD j = (m.read (pixelAddr x y)).getLsbD j := by
  have ha : pixelAddr x y < Config.memSize := (pixelAddr_bounds hx hy).2
  rw [Memory.setPixel, Memory.read_write_self _ _ _ ha, getLsbD_setBit _ _ _ _ hj, if_neg hne]

/-- A second write of the same value changes no byte: outside the framebuffer neither write does, and
there a byte is its pixels. -/
theorem read_setPixel_twice (on : Bool) (hx : x < 64) (hy : y < 32) (b : Nat) :
    ((m.setPixel x y on).setPixel x y on).read b = (m.setPixel x y on).read b := by
  refine read_eq_of_pixels (fun a ha => read_setPixel_outside _ on hx hy ha) (fun u hu v _ => ?_) b
  rw [pixel_setPixel _ on hx hy hu]
  split
  · next h => rw [pixel_setPixel _ on hx hy hu, if_pos h]
  · rfl

/-- Settles O40: the address and the bit of the statement are `pixelAddr` and `pixelBit`, and each
part of the frame is a lemma on `setPixel`. -/
theorem setPixelChangesOneBit : Obligations.SetPixelChangesOneBit := by
  rintro m x y _ _ on hx hy rfl rfl
  refine ⟨rfl, ?_, fun j hj hne => getLsbD_setPixel_of_ne m on hx hy hj hne,
    fun b hb => read_setPixel_of_ne m on hb, read_setPixel_twice m false hx hy⟩
  rw [pixel_setPixel m on hx hy hx, if_pos ⟨rfl, rfl⟩]

end Sys2Proof.Machine
end

section
/-! ## Timer loads and the bulk load (R191, R192, R196) -/

namespace Sys2Proof.Machine

variable (s : State) (x : Reg)

theorem exec_ldDtVx : exec (.ldDtVx x) s = .next (s.setDt (s.readV x)) := rfl

theorem exec_ldStVx : exec (.ldStVx x) s = .next (s.setSt (s.readV x)) := rfl

theorem exec_loadRegs :
    exec (.loadRegs x) s = checkRange (.loadRegs x) s s.effAddr (x.val + 1)
      (.next ((s.setRegs (s.loadBlock x s.effAddr)).setI (s.nextI x))) := rfl

/-- `I` advances past the block and wraps at 16 bits (R195, R196). -/
theorem State.toNat_nextI : (s.nextI x).toNat = (s.i.toNat + x.val + 1) % 65536 := by
  rw [State.nextI, BitVec.toNat_add, BitVec.toNat_ofNat]
  omega

/-- The address that a range fault records: the base when it is itself out of range, and otherwise the
first address past memory (R212, log 8). -/
theorem max_memSize (a : Nat) :
    max a Config.memSize = if a ≤ 0xFFF then 0x1000 else a := by
  rw [Config.memSize]
  split <;> omega

theorem exec_loadRegs_inRange (h : s.effAddr + x.val ≤ 0xFFF) :
    exec (.loadRegs x) s = .next ((s.setRegs (s.loadBlock x s.effAddr)).setI (s.nextI x)) := by
  have hr : s.effAddr + (x.val + 1) ≤ Config.memSize := Nat.succ_le_succ h
  rw [exec_loadRegs, checkRange_ok _ _ _ (.inr hr)]

theorem exec_loadRegs_outOfRange (h : 0xFFF < s.effAddr + x.val) :
    exec (.loadRegs x) s = .fault (.memRange s.instrAddr (encode (.loadRegs x))
      (if s.effAddr ≤ 0xFFF then 0x1000 else s.effAddr)) := by
  have hr : Config.memSize < s.effAddr + (x.val + 1) := Nat.succ_lt_succ h
  rw [exec_loadRegs, checkRange_fault _ _ _ x.val.succ_pos hr, max_memSize]

/-- Settles O34: each load is one update of its timer. -/
theorem timerLoads : Obligations.TimerLoads :=
  fun s x => ⟨exec_ldDtVx s x, exec_ldStVx s x⟩

/-- Settles O37: in range the registers up to X come from the block and the others stay, and `I` alone
of the special registers moves; out of range the test fails before any load. -/
theorem bulkLoad : Obligations.BulkLoad := by
  intro s x
  refine ⟨fun h => ⟨_, exec_loadRegs_inRange s x h, fun r hr => ?_, fun r hr => ?_,
    s.toNat_nextI x, fun _ => rfl, by simp [SameSpecial]⟩, exec_loadRegs_outOfRange s x⟩
  · rw [State.readV_setI, State.readV_setRegs_loadBlock, if_pos hr, State.effAddr]
  · rw [State.readV_setI, State.readV_setRegs_loadBlock, if_neg (not_le.mpr hr)]

end Sys2Proof.Machine
end

section
/-! ## The decoder and the encoder are inverse (R84 to R89, R94, R97) -/

namespace Sys2Proof

/-! ### From an instruction to its word and back -/

theorem wellFormed_sys_iff {nnn : Addr12} :
    (Instr.sys nnn).wellFormed = true ↔ nnn ≠ 0x0E0 ∧ nnn ≠ 0x0EE := by
  rw [Instr.wellFormed, Bool.and_eq_true, bne_iff_ne, bne_iff_ne]

/-- The words of SYS are those of family 0 but for CLS and RET (R85). -/
theorem decode_encode_sys {nnn : Addr12} (h : (Instr.sys nnn).wellFormed = true) :
    decode (encode (.sys nnn)) = .instr (.sys nnn) := by
  obtain ⟨hcls, hret⟩ := wellFormed_sys_iff.mp h
  simp only [encode, decode, decodeFamily0, fieldF_encodeA Nat.ofNat_pos, fieldNNN_encodeA,
    if_neg hcls, if_neg hret]

/-- Settles O1: by the instruction's format, since the fields of a word put together by a format are
those it was put together from. -/
theorem decodeOfEncodeIsIdentity : Obligations.DecodeOfEncodeIsIdentity := by
  intro i h
  cases i with
  | sys nnn => exact decode_encode_sys h
  | cls | ret => decide
  | jp | call | ldI | jpV0 => simp [encode, decode, fieldF_encodeA, fieldNNN_encodeA]
  | seByte | sneByte | ldByte | addByte | rnd =>
    simp [encode, decode, fieldF_encodeXK, fieldX_encodeXK, fieldKK_encodeXK]
  | skp | sknp =>
    simp [encode, decode, decodeFamilyE, fieldF_encodeXK, fieldX_encodeXK, fieldKK_encodeXK]
  | ldVxDt | ldVxK | ldDtVx | ldStVx | addIVx | ldFVx | ldBVx | storeRegs | loadRegs =>
    simp [encode, decode, decodeFamilyF, fieldF_encodeXK, fieldX_encodeXK, fieldKK_encodeXK]
  | seReg | sneReg | drw =>
    simp [encode, decode, decodeIfN0, fieldF_encodeXY, fieldX_encodeXY, fieldY_encodeXY,
      fieldN_encodeXY]
  | ldReg | orReg | andReg | xorReg | addReg | sub | shr | subn | shl =>
    simp [encode, decode, decodeFamily8, fieldF_encodeXY, fieldX_encodeXY, fieldY_encodeXY,
      fieldN_encodeXY]

/-! ### From a word to its instruction and back -/

variable {w : Word} {i : Instr}

/-- A word of formats XK and X is its fields put together, its low byte the one that selects it. -/
theorem encodeXK_of_fieldKK {f k : Nat} {kk : Byte} (hf : fieldF w = f)
    (hk : (fieldKK w).toNat = k) (hkk : kk.toNat = k) : encodeXK f (fieldX w) kk = w := by
  rw [BitVec.eq_of_toNat_eq (hkk.trans hk.symm), encodeXK_fields hf]

/-- A word of format XY is its fields put together, its low nibble the one that selects it. -/
theorem encodeXY_of_fieldN {f k : Nat} {n : Fin 16} (hf : fieldF w = f)
    (hk : (fieldN w).val = k) (hn : n.val = k) : encodeXY f (fieldX w) (fieldY w) n = w := by
  rw [Fin.ext (hn.trans hk.symm), encodeXY_fields hf]

theorem decodeFamily0_instr (hf : fieldF w = 0) (h : decodeFamily0 w = .instr i) :
    i.wellFormed = true ∧ encode i = w := by
  have hw := encodeA_fields hf
  unfold decodeFamily0 at h
  split at h
  · next hn => obtain rfl := Decoded.instr.inj h; exact ⟨rfl, by rw [← hw, hn]; rfl⟩
  · next hcls =>
    split at h
    · next hn => obtain rfl := Decoded.instr.inj h; exact ⟨rfl, by rw [← hw, hn]; rfl⟩
    · next hret =>
      obtain rfl := Decoded.instr.inj h
      exact ⟨wellFormed_sys_iff.mpr ⟨hcls, hret⟩, hw⟩

theorem decodeIfN0_instr {j : Instr} (h : decodeIfN0 w j = .instr i) :
    (fieldN w).val = 0 ∧ j = i := by
  unfold decodeIfN0 at h
  split at h
  · next hn => exact ⟨congrArg Fin.val hn, Decoded.instr.inj h⟩
  · exact nomatch h

theorem decodeFamily8_instr (hf : fieldF w = 8) (h : decodeFamily8 w = .instr i) :
    i.wellFormed = true ∧ encode i = w := by
  unfold decodeFamily8 at h
  split at h
  case h_10 => exact nomatch h
  all_goals
    next hn =>
    obtain rfl := Decoded.instr.inj h
    exact ⟨rfl, encodeXY_of_fieldN hf hn rfl⟩

theorem decodeFamilyE_instr (hf : fieldF w = 14) (h : decodeFamilyE w = .instr i) :
    i.wellFormed = true ∧ encode i = w := by
  unfold decodeFamilyE at h
  split at h
  case h_3 => exact nomatch h
  all_goals
    next hk =>
    obtain rfl := Decoded.instr.inj h
    exact ⟨rfl, encodeXK_of_fieldKK hf hk rfl⟩

theorem decodeFamilyF_instr (hf : fieldF w = 15) (h : decodeFamilyF w = .instr i) :
    i.wellFormed = true ∧ encode i = w := by
  unfold decodeFamilyF at h
  split at h
  case h_10 => exact nomatch h
  all_goals
    next hk =>
    obtain rfl := Decoded.instr.inj h
    exact ⟨rfl, encodeXK_of_fieldKK hf hk rfl⟩

theorem fieldF_lt (w : Word) : fieldF w < 16 := by
  have := w.isLt
  simp only [fieldF]
  omega

/-- Settles O2: the word of each family is its fields put together, and the fields that select the
instruction within the family have its values. -/
theorem decodedWordIsItsEncoding : Obligations.DecodedWordIsItsEncoding := by
  intro w i h
  unfold decode at h
  split at h
  case h_1 hf => exact decodeFamily0_instr hf h
  case h_6 hf | h_10 hf =>
    obtain ⟨hn, rfl⟩ := decodeIfN0_instr h
    exact ⟨rfl, encodeXY_of_fieldN hf hn rfl⟩
  case h_9 hf => exact decodeFamily8_instr hf h
  case h_15 hf => exact decodeFamilyE_instr hf h
  case h_16 =>
    have hF : fieldF w = 15 := by grind [fieldF_lt w]
    exact decodeFamilyF_instr hF h
  case h_2 hf | h_3 hf | h_11 hf | h_12 hf =>
    obtain rfl := Decoded.instr.inj h
    exact ⟨rfl, encodeA_fields hf⟩
  case h_4 hf | h_5 hf | h_7 hf | h_8 hf | h_13 hf =>
    obtain rfl := Decoded.instr.inj h
    exact ⟨rfl, encodeXK_fields hf⟩
  case h_14 hf =>
    obtain rfl := Decoded.instr.inj h
    exact ⟨rfl, encodeXY_fields hf⟩

/-! ### The words that are no instruction -/

theorem fieldN_val (w : Word) : (fieldN w).val = w.toNat % 16 := rfl

theorem toNat_fieldKK (w : Word) : (fieldKK w).toNat = w.toNat % 256 := BitVec.toNat_ofNat ..

@[simp] theorem decodeFamily0_ne_unrecognised (w : Word) : decodeFamily0 w ≠ .unrecognised := by
  unfold decodeFamily0
  split_ifs <;> exact nofun

@[simp] theorem decodeFamily0_ne_ambiguous (w : Word) : decodeFamily0 w ≠ .ambiguous := by
  unfold decodeFamily0
  split_ifs <;> exact nofun

@[simp] theorem decodeIfN0_ne_unrecognised (w : Word) (i : Instr) :
    decodeIfN0 w i ≠ .unrecognised := by
  unfold decodeIfN0
  split_ifs <;> exact nofun

theorem decodeIfN0_ambiguous_iff (w : Word) (i : Instr) :
    decodeIfN0 w i = .ambiguous ↔ w.toNat % 16 ≠ 0 := by
  have hn : fieldN w = 0 ↔ w.toNat % 16 = 0 := Fin.ext_iff
  rw [Ne, ← hn, decodeIfN0]
  split_ifs with h <;> simp [h]

theorem decodeFamily8_unrecognised_iff (w : Word) :
    decodeFamily8 w = .unrecognised ↔
      8 ≤ w.toNat % 16 ∧ w.toNat % 16 ≤ 13 ∨ w.toNat % 16 = 15 := by
  have hlt := (fieldN w).isLt
  rw [← fieldN_val]
  unfold decodeFamily8
  split
  case h_10 => grind
  all_goals
    next h => simp [h]

@[simp] theorem decodeFamily8_ne_ambiguous (w : Word) : decodeFamily8 w ≠ .ambiguous := by
  unfold decodeFamily8
  split <;> exact nofun

@[simp] theorem decodeFamilyE_ne_unrecognised (w : Word) : decodeFamilyE w ≠ .unrecognised := by
  unfold decodeFamilyE
  split <;> exact nofun

theorem decodeFamilyE_ambiguous_iff (w : Word) :
    decodeFamilyE w = .ambiguous ↔ w.toNat % 256 ∉ [0x9E, 0xA1] := by
  rw [← toNat_fieldKK]
  unfold decodeFamilyE
  split
  case h_3 => simp_all
  all_goals
    next h => simp [h]

@[simp] theorem decodeFamilyF_ne_unrecognised (w : Word) : decodeFamilyF w ≠ .unrecognised := by
  unfold decodeFamilyF
  split <;> exact nofun

theorem decodeFamilyF_ambiguous_iff (w : Word) :
    decodeFamilyF w = .ambiguous ↔
      w.toNat % 256 ∉ [0x07, 0x0A, 0x15, 0x18, 0x1E, 0x29, 0x33, 0x55, 0x65] := by
  rw [← toNat_fieldKK]
  unfold decodeFamilyF
  split
  case h_10 => simp_all
  all_goals
    next h => simp [h]

/-- Settles O3: only family 8 holds unrecognised words and only families 5, 9, E and F ambiguous ones, and
each of these says which of its words they are. -/
theorem decodeRejectsExactlyTheListedWords : Obligations.DecodeRejectsExactlyTheListedWords := by
  intro w
  change (_ ↔ fieldF w = 8 ∧ _) ∧ (_ ↔ ((fieldF w = 5 ∨ fieldF w = 9) ∧ _) ∨
    (fieldF w = 14 ∧ _) ∨ (fieldF w = 15 ∧ _))
  rw [← decodeFamily8_unrecognised_iff, ← decodeFamilyE_ambiguous_iff,
    ← decodeFamilyF_ambiguous_iff]
  unfold decode
  split
  case h_6 hf | h_10 hf => simp [hf, decodeIfN0_ambiguous_iff]
  case h_16 =>
    have hF : fieldF w = 15 := by grind [fieldF_lt w]
    simp [hF]
  all_goals
    next hf => simp [hf]

/-! ### Sample words -/

/-- Settles O4: the decoder run on seven closed words. -/
theorem sampleWordsDecode : Obligations.SampleWordsDecode := by
  unfold Obligations.SampleWordsDecode
  decide

end Sys2Proof
end

section
/-! ## The call stack: CALL and RET (R54, R102, R103, R110) -/

namespace Sys2Proof.Machine

variable (s : State)

theorem stackEntry_add_two_le {k : Nat} (h : k < 16) : stackEntry k + 2 ≤ Config.memSize := by
  simp only [stackEntry, Config.stackBase, Config.memSize]
  omega

theorem exec_ret_underflow (h : s.sp.toNat = 0) :
    exec .ret s = .fault (.stackUnderflow (s.pc - 2) (encode .ret)) :=
  if_pos (BitVec.eq_of_toNat_eq h)

/-- The entry that RET reads lies inside memory while at most 16 are in use, so its range test passes. -/
theorem exec_ret_inUse (h0 : 1 ≤ s.sp.toNat) (h16 : s.sp.toNat ≤ 16) :
    exec .ret s = .next ((s.setSp (s.sp - 1)).setPc (s.stackRead (s.sp.toNat - 1))) := by
  have hne : s.sp ≠ 0 := by rintro e; simp [e] at h0
  have hr : stackEntry (s.sp.toNat - 1) + 2 ≤ Config.memSize := stackEntry_add_two_le (by omega)
  exact (if_neg hne).trans (checkRange_ok s .ret _ (.inr hr))

theorem exec_call_overflow (nnn : Addr12) (h : 16 ≤ s.sp.toNat) :
    exec (.call nnn) s = .fault (.stackOverflow (s.pc - 2) (encode (.call nnn))) :=
  if_pos h

theorem exec_call_entryFree (nnn : Addr12) (h : s.sp.toNat < 16) :
    exec (.call nnn) s =
      .next (((s.stackWrite s.sp.toNat s.pc).setSp (s.sp + 1)).setPc (addrOperand nnn)) :=
  if_neg (Nat.not_le.mpr h)

/-! ### An entry's two bytes (R54) -/

theorem State.byte_stackWrite_first {k : Nat} (w : Word) (h : k < 16) :
    (s.stackWrite k w).byte (stackEntry k) = firstByte s.params.stackByteOrder w :=
  s.byte_store_inside (stackEntry k) 0 [_, _] Nat.zero_lt_two (stackEntry_add_two_le h)

theorem State.byte_stackWrite_second {k : Nat} (w : Word) (h : k < 16) :
    (s.stackWrite k w).byte (stackEntry k + 1) = secondByte s.params.stackByteOrder w :=
  s.byte_store_inside (stackEntry k) 1 [_, _] Nat.one_lt_two (stackEntry_add_two_le h)

theorem State.sameBytesOutside_store (a : Nat) (bs : List Byte) :
    SameBytesOutside a bs.length s (s.store a bs) :=
  fun b hb => s.byte_store_outside a b bs (by omega)

/-! ### `sp` as a number -/

theorem toNat_sp_add_one {k : Byte} (h : k.toNat < 16) : (k + 1).toNat = k.toNat + 1 := by
  rw [BitVec.toNat_add_of_lt] <;> simp; omega

theorem toNat_sp_sub_one {k : Byte} (h : 1 ≤ k.toNat) : (k - 1).toNat + 1 = k.toNat := by
  rw [BitVec.toNat_sub_of_le (y := 1) h]
  exact Nat.sub_add_cancel h

/-! ### The obligations -/

/-- Settles O22: with an entry free CALL is a stack write of `pc`, whose two bytes read back by the byte
order, and otherwise its test fails. -/
theorem callPushesReturnAddressAndJumps : Obligations.CallPushesReturnAddressAndJumps := by
  intro s nnn
  refine ⟨fun h => ⟨rfl, _, exec_call_entryFree s nnn h, toNat_addrOperand nnn,
    toNat_sp_add_one h, fun ho => ?_, fun ho => ?_, ?_, rfl⟩, exec_call_overflow s nnn⟩
  · simp [State.byte_stackWrite_first, State.byte_stackWrite_second, h, ho, firstByte, secondByte,
      toNat_highByte, toNat_lowByte]
  · simp [State.byte_stackWrite_first, State.byte_stackWrite_second, h, ho, firstByte, secondByte,
      toNat_highByte, toNat_lowByte]
  · exact s.sameBytesOutside_store (stackEntry s.sp.toNat) [_, _]

/-- Settles O23: with 1 to 16 entries in use RET reads the entry below `sp` by the byte order, and with
none its test fails. -/
theorem returnPopsIntoPc : Obligations.ReturnPopsIntoPc := by
  intro s
  refine ⟨fun h0 h16 => ⟨rfl, _, exec_ret_inUse s h0 h16, toNat_sp_sub_one h0, fun ho => ?_,
    fun ho => ?_, rfl⟩, exec_ret_underflow s⟩
  · simp [State.stackRead, entryWord, ho, toNat_wordOfBytes]
  · simp [State.stackRead, entryWord, ho, toNat_wordOfBytes]

/-- Settles O24: RET reads the entry CALL wrote, which holds the return address in either byte order. -/
theorem returnUndoesCall : Obligations.ReturnUndoesCall := by
  intro s t u nnn h hsp hparams hfirst hsecond
  obtain ⟨hfree, rfl⟩ := execCall_next h
  have hadd : u.sp.toNat = s.sp.toNat + 1 := hsp ▸ toNat_sp_add_one hfree
  have hle : u.sp.toNat ≤ 16 := hadd ▸ hfree
  have hentry : u.sp.toNat - 1 = s.sp.toNat := by rw [hadd, Nat.add_sub_cancel]
  refine ⟨_, exec_ret_inUse u (hadd ▸ Nat.le_add_left 1 _) hle, ?_, ?_, fun _ => rfl⟩
  · calc u.stackRead (u.sp.toNat - 1)
      _ = u.stackRead s.sp.toNat := by rw [hentry]
      _ = (s.stackWrite s.sp.toNat s.pc).stackRead s.sp.toNat :=
        State.stackRead_congr _ hparams hfirst hsecond
      _ = s.pc := s.stackRead_stackWrite _ _ hfree
  · simp [hsp]

end Sys2Proof.Machine
end

section
/-! ## Stores at `I`: BCD and the bulk store (R194, R195, R197) -/

namespace Sys2Proof.Machine

variable (s : State) (x : Reg)

/-- A range test that fails records the instruction's own address, its word, and the lowest address out of
range (R56, R212). -/
theorem checkRange_outOfRange (i : Instr) {base count : Nat} (k : Result) (h0 : 0 < count)
    (h : Config.memSize < base + count) :
    checkRange i s base count k =
      .fault (.memRange (s.pc - 2) (encode i) (if base ≤ 0xFFF then 0x1000 else base)) := by
  rw [checkRange_fault s i k h0 h, max_memSize]
  rfl

theorem exec_ldBVx_inRange (h : s.effAddr + 2 ≤ 0xFFF) :
    exec (.ldBVx x) s = .next (s.store s.effAddr (bcdBytes s.params.bcdMode (s.readV x))) :=
  checkRange_ok s (.ldBVx x) _ (.inr (Nat.succ_le_succ h))

theorem exec_storeRegs_inRange (h : s.effAddr + x.val ≤ 0xFFF) :
    exec (.storeRegs x) s = .next ((s.store s.effAddr (s.regBlock x)).setI (s.nextI x)) :=
  checkRange_ok s (.storeRegs x) _ (.inr (Nat.succ_le_succ h))

/-- A bulk store that answers a next state was in range (R56). -/
theorem exec_storeRegs_next {t : State} (h : exec (.storeRegs x) s = .next t) :
    s.effAddr + x.val ≤ 0xFFF ∧ t = (s.store s.effAddr (s.regBlock x)).setI (s.nextI x) := by
  obtain ⟨hr, ht⟩ := checkRange_next s h
  refine ⟨?_, next_eq ht⟩
  simp only [Config.memSize] at hr
  omega

/-! ### The bytes stored -/

@[simp] theorem length_bcdBytes (mode : BcdMode) (b : Byte) : (bcdBytes mode b).length = 3 := by
  cases mode <;> rfl

theorem State.byte_store_three {a : Nat} (b0 b1 b2 : Byte) (ha : a + 2 ≤ 0xFFF) :
    (s.store a [b0, b1, b2]).byte a = b0 ∧ (s.store a [b0, b1, b2]).byte (a + 1) = b1 ∧
      (s.store a [b0, b1, b2]).byte (a + 2) = b2 := by
  have hlen : a + [b0, b1, b2].length ≤ Config.memSize := Nat.succ_le_succ ha
  exact ⟨s.byte_store_inside a 0 _ (by simp) hlen, s.byte_store_inside a 1 _ (by simp) hlen,
    s.byte_store_inside a 2 _ (by simp) hlen⟩

theorem State.byte_store_regBlock {a : Nat} {r : Reg} (hr : r ≤ x) (ha : a + x.val ≤ 0xFFF) :
    (s.store a (s.regBlock x)).byte (a + r.val) = s.readV r := by
  have hlen : r.val < (s.regBlock x).length := by
    rw [State.length_regBlock]
    exact Nat.lt_succ_of_le hr
  rw [s.byte_store_inside a r.val _ hlen (by rw [State.length_regBlock]; exact Nat.succ_le_succ ha),
    s.getElem_regBlock x r.val hlen r.isLt]

/-! ### The obligations -/

/-- Settles O35: in range the three bytes read back as the mode's list says, and out of range the test fails
before any store. -/
theorem bcdStoresThreeBytes : Obligations.BcdStoresThreeBytes := by
  intro s x
  refine ⟨fun h => ⟨_, exec_ldBVx_inRange s x h, rfl, fun hm => ?_, fun hm => ?_, ?_, rfl⟩,
    fun h => ?_⟩
  · have hv := (s.readV x).isLt
    obtain ⟨h0, h1, h2⟩ := s.byte_store_three _ _ _ h
    rw [hm, bcdBytes, h0, h1, h2, BitVec.toNat_ofNat, BitVec.toNat_ofNat, BitVec.toNat_ofNat]
    omega
  · have hv := (s.readV x).isLt
    obtain ⟨h0, h1, h2⟩ := s.byte_store_three _ _ _ h
    rw [hm, bcdBytes, h0, h1, h2, Nat.shiftRight_eq_div_pow, Nat.shiftRight_eq_div_pow]
    refine ⟨?_, ?_, ?_⟩
    · simp [Nat.div_eq_of_lt hv]
    · simp; omega
    · simp
  · simpa using s.sameBytesOutside_store s.effAddr (bcdBytes s.params.bcdMode (s.readV x))
  · exact checkRange_outOfRange s (.ldBVx x) _ Nat.ofNat_pos (Nat.succ_lt_succ h)

/-- Settles O36: in range each register reads back at its place in the block, and out of range the test
fails before any store. -/
theorem bulkStore : Obligations.BulkStore := by
  intro s x
  refine ⟨fun h => ⟨_, exec_storeRegs_inRange s x h, rfl, fun r hr => s.byte_store_regBlock x hr h,
    s.toNat_nextI x, ?_, rfl⟩, fun h => ?_⟩
  · rw [← s.length_regBlock x]
    exact s.sameBytesOutside_store s.effAddr (s.regBlock x)
  · exact checkRange_outOfRange s (.storeRegs x) _ x.val.succ_pos (Nat.succ_lt_succ h)

/-- Settles O38: the load reads at each register's place the byte that the store put there. -/
theorem bulkRoundTrip : Obligations.BulkRoundTrip := by
  intro s t u x h hi hbytes
  obtain ⟨hr, rfl⟩ := exec_storeRegs_next s x h
  have haddr : u.effAddr = s.effAddr := congrArg BitVec.toNat hi
  refine ⟨_, exec_loadRegs_inRange u x (haddr ▸ hr), fun r hrx => ?_, ?_, rfl⟩
  · rw [State.readV_setI, State.readV_setRegs_loadBlock, if_pos hrx, haddr]
    exact (hbytes r hrx).trans (s.byte_store_regBlock x hrx hr)
  · simp [State.nextI, hi]

/-- Settles O39: the fetch reads two registers' places in the block, the lower one as the high byte. -/
theorem fetchSeesEarlierStore : Obligations.FetchSeesEarlierStore := by
  intro s t u x k hk hx h hmem hpc
  obtain ⟨hr, rfl⟩ := exec_storeRegs_next s x h
  have hhi := s.byte_store_regBlock x (r := ⟨k, by omega⟩) (Nat.le_of_succ_le hx) hr
  have hlo := s.byte_store_regBlock x (r := ⟨k + 1, hk⟩) hx hr
  rw [State.fetchWord, Memory.readWord, toNat_wordOfBytes, hpc, hmem, ← hhi, ← hlo]
  rfl

end Sys2Proof.Machine
end

section
/-! ## The display: CLS and DRW (R163 to R166) -/

namespace Sys2Proof.Machine

variable (s : State)

/-- Stated for any memory, so that comparing the two records never evaluates one. -/
theorem State.setMem_eq_with_mem (m : Memory) :
    s.setMem m = { s with mem := (s.setMem m).mem } := rfl

theorem exec_cls : exec .cls s = .next (s.setMem s.mem.clearDisplay) := rfl

/-- Settles O41: a cleared byte reads 0, and a pixel is a bit of a framebuffer byte. -/
theorem clearScreen : Obligations.ClearScreen := by
  intro s
  refine ⟨_, exec_cls s, fun a h0 h1 => ?_, fun x hx y hy => ?_, fun b hb => ?_,
    s.setMem_eq_with_mem _⟩
  · rw [State.byte_setMem, read_clearDisplay_inside _ h0 (by omega)]
  · obtain ⟨h0, h1⟩ := pixelAddr_bounds hx hy
    rw [State.setMem_mem, Memory.pixel, read_clearDisplay_inside _ h0 h1]
    exact BitVec.getLsbD_zero
  · rw [State.byte_setMem, read_clearDisplay_outside _ hb, State.byte]

/-! ### What DRW answers -/

/-- The state after DRW: the sprite drawn, and then VF written (R164). -/
def State.afterDraw (x y : Reg) (n : Fin 16) : State :=
  (s.setMem (s.drawn x y n).1).writeV VF (flagByte (s.drawn x y n).2)

variable (x y : Reg) (n : Fin 16)

theorem exec_drw_inRange (h : n.val = 0 ∨ s.effAddr + n.val ≤ Config.memSize) :
    exec (.drw x y n) s = .next (s.afterDraw x y n) :=
  checkRange_ok s (.drw x y n) _ h

theorem exec_drw_next {t : State} (h : exec (.drw x y n) s = .next t) : t = s.afterDraw x y n :=
  next_eq (checkRange_next s h).2

@[simp] theorem State.afterDraw_mem : (s.afterDraw x y n).mem = (s.drawn x y n).1 := rfl

@[simp] theorem State.byte_afterDraw (a : Nat) :
    (s.afterDraw x y n).byte a = (s.drawn x y n).1.read a := rfl

theorem State.readV_VF_afterDraw : (s.afterDraw x y n).readV VF = flagByte (s.drawn x y n).2 :=
  State.readV_writeV_self _ _ _

theorem State.readV_VF_afterDraw_eq_one :
    (s.afterDraw x y n).readV VF = 1 ↔ (s.drawn x y n).2 = true := by
  rw [State.readV_VF_afterDraw, flagByte_eq_one]

theorem State.readV_VF_afterDraw_cases :
    (s.afterDraw x y n).readV VF = 0 ∨ (s.afterDraw x y n).readV VF = 1 := by
  rw [State.readV_VF_afterDraw]
  cases (s.drawn x y n).2
  · exact .inl rfl
  · exact .inr rfl

theorem State.sameRegsExcept_afterDraw : SameRegsExcept [VF] s (s.afterDraw x y n) :=
  fun _ hr => State.readV_writeV_of_ne _ _ (Ne.symm (List.ne_of_not_mem_cons hr))

theorem State.sameBytesOutside_afterDraw : SameBytesOutside 0xF00 256 s (s.afterDraw x y n) :=
  fun _ hb => read_drawSprite_outside _ _ _ _ _ hb

theorem State.sameSpecial_afterDraw : SameSpecial s (s.afterDraw x y n) := by
  simp [SameSpecial, State.afterDraw]

/-- Settles O42: the range test passes with no rows or with the last one at or below 0xFFF, and what DRW
then answers has the frame of `afterDraw`. -/
theorem drawFrameAndRangeFault : Obligations.DrawFrameAndRangeFault := by
  intro s x y n
  refine ⟨fun h => ?_, fun h0 h => ?_⟩
  · have hr : n.val = 0 ∨ s.effAddr + n.val ≤ Config.memSize := by
      simp only [Config.memSize]
      omega
    exact ⟨_, exec_drw_inRange s x y n hr, s.readV_VF_afterDraw_cases x y n,
      s.sameRegsExcept_afterDraw x y n, s.sameBytesOutside_afterDraw x y n,
      s.sameSpecial_afterDraw x y n⟩
  · have hr : Config.memSize < s.effAddr + n.val := by
      simp only [Config.memSize]
      omega
    exact checkRange_outOfRange s (.drw x y n) _ h0 hr

/-- Settles O43: no rows leave memory as it is and collide with nothing. -/
theorem drawOfNoRowsClearsVf : Obligations.DrawOfNoRowsClearsVf :=
  fun s x y => exec_drw_inRange s x y 0 (.inl rfl)

/-! ### One row more -/

/-- A pixel that a sprite bit XORs goes from 1 to 0 exactly where it was 1 and the bit is set. -/
theorem eq_true_and_xor_eq_false_iff (p b : Bool) :
    (p = true ∧ xor p b = false) ↔ (b = true ∧ p = true) := by
  cases p <;> cases b <;> simp

/-- The sprite of one row more is the shorter sprite and then that row (R165). -/
theorem State.drawn_succ {n : Nat} (hn : n + 1 < 16) :
    s.drawn x y ⟨n + 1, hn⟩ = drawSpriteRow s.effAddr (spriteX (s.readV x)) (spriteY (s.readV y))
      (s.drawn x y ⟨n, Nat.lt_of_succ_lt hn⟩) n := drawSprite_succ ..

/-- Row `n` is read from memory as the rows above it left it. -/
theorem State.pixel_afterDraw_succ {n : Nat} (hn : n + 1 < 16) {px py : Nat} (hx : px < 64)
    (hy : py < 32) :
    (s.afterDraw x y ⟨n + 1, hn⟩).mem.pixel px py =
      xor ((s.afterDraw x y ⟨n, Nat.lt_of_succ_lt hn⟩).mem.pixel px py)
        (columnBit ((s.afterDraw x y ⟨n, Nat.lt_of_succ_lt hn⟩).byte (s.effAddr + n))
          (spriteX (s.readV x)) (spriteY (s.readV y) + n) 8 px py) := by
  rw [State.afterDraw_mem, State.drawn_succ, pixel_drawSpriteRow _ _ _ _ _ hx hy,
    State.afterDraw_mem, State.byte_afterDraw]

/-- Settles O44: both draws are in range, and the longer one is the shorter one and then its last row. -/
theorem drawAddsOneRow : Obligations.DrawAddsOneRow := by
  intro s x y n hn h
  have hr : s.effAddr + (n + 1) ≤ Config.memSize := Nat.succ_le_succ h
  refine ⟨_, _, exec_drw_inRange s x y _ (.inr (Nat.le_of_succ_le hr)),
    exec_drw_inRange s x y _ (.inr hr),
    fun _ hx _ hy => s.pixel_afterDraw_succ x y hn hx hy, ?_⟩
  rw [State.readV_VF_afterDraw_eq_one, State.readV_VF_afterDraw_eq_one, State.drawn_succ,
    collided_drawSpriteRow]
  refine or_congr_right (exists_congr fun px => and_congr_right fun hx => exists_congr fun py =>
    and_congr_right fun hy => ?_)
  rw [s.pixel_afterDraw_succ x y hn hx hy]
  exact (eq_true_and_xor_eq_false_iff _ _).symm

/-! ### A whole sprite below the framebuffer -/

/-- Whether the first `n` rows of the sprite at `base`, drawn from (x0, y0) on, have a set bit at
pixel (u, v). -/
def rowsBit (m : Memory) (base x0 y0 n u v : Nat) : Bool :=
  decide (x0 ≤ u ∧ u < x0 + 8 ∧ y0 ≤ v ∧ v < y0 + n) &&
    (m.read (base + (v - y0))).getLsbD (7 - (u - x0))

theorem State.spriteBit_eq_rowsBit (n u v : Nat) :
    s.spriteBit x y n u v =
      rowsBit s.mem s.effAddr (spriteX (s.readV x)) (spriteY (s.readV y)) n u v := rfl

variable (m : Memory) (base x0 y0 : Nat)

@[simp] theorem rowsBit_zero (u v : Nat) : rowsBit m base x0 y0 0 u v = false := by
  have hn : ¬ (x0 ≤ u ∧ u < x0 + 8 ∧ y0 ≤ v ∧ v < y0 + 0) := by omega
  rw [rowsBit, decide_eq_false hn, Bool.false_and]

theorem rowsBit_congr {m m' : Memory} {n : Nat}
    (h : ∀ r < n, m'.read (base + r) = m.read (base + r)) (u v : Nat) :
    rowsBit m' base x0 y0 n u v = rowsBit m base x0 y0 n u v := by
  unfold rowsBit
  by_cases hr : v - y0 < n
  · rw [h _ hr]
  · have hn : ¬ (x0 ≤ u ∧ u < x0 + 8 ∧ y0 ≤ v ∧ v < y0 + n) := by omega
    rw [decide_eq_false hn, Bool.false_and, Bool.false_and]

/-- The pixels of row `n` are none of the rows above it. -/
theorem rowsBit_eq_false_of_columnBit {row : Byte} {n u v : Nat}
    (h : columnBit row x0 (y0 + n) 8 u v = true) : rowsBit m base x0 y0 n u v = false := by
  have hv : v = y0 + n := by
    simp only [columnBit, Bool.and_eq_true, decide_eq_true_eq] at h
    exact h.1.1
  have hn : ¬ (x0 ≤ u ∧ u < x0 + 8 ∧ y0 ≤ v ∧ v < y0 + n) := by omega
  rw [rowsBit, decide_eq_false hn, Bool.false_and]

/-- Row `n` adds its own bits to those of the rows above it, which are other pixels. -/
theorem rowsBit_succ (n u v : Nat) :
    rowsBit m base x0 y0 (n + 1) u v =
      xor (rowsBit m base x0 y0 n u v) (columnBit (m.read (base + n)) x0 (y0 + n) 8 u v) := by
  by_cases hv : v = y0 + n
  · subst hv
    simp [rowsBit, columnBit]
  · have hiff : (x0 ≤ u ∧ u < x0 + 8 ∧ y0 ≤ v ∧ v < y0 + (n + 1)) ↔
        (x0 ≤ u ∧ u < x0 + 8 ∧ y0 ≤ v ∧ v < y0 + n) := by omega
    simp [rowsBit, columnBit, hv, hiff]

/-- A row below the framebuffer reads as it did before the rows above it were drawn. -/
theorem read_drawSprite_row {n : Nat} (h : base + n < 0xF00) :
    (drawSprite m base x0 y0 n).1.read (base + n) = m.read (base + n) :=
  read_drawSprite_outside _ _ _ _ _ (by omega)

theorem pixel_drawSprite {n : Nat} (h : base + n ≤ 0xF00) {u v : Nat} (hu : u < 64) (hv : v < 32) :
    (drawSprite m base x0 y0 n).1.pixel u v =
      xor (m.pixel u v) (rowsBit m base x0 y0 n u v) := by
  induction n with
  | zero =>
    rw [rowsBit_zero, Bool.xor_false]
    rfl
  | succ n ih =>
    rw [drawSprite_succ, pixel_drawSpriteRow _ _ _ _ _ hu hv, read_drawSprite_row _ _ _ _ h,
      ih (Nat.le_of_succ_le h), rowsBit_succ, Bool.xor_assoc]

/-- The collision mark of a sprite below the framebuffer: some pixel with a sprite bit was set. -/
theorem collided_drawSprite {n : Nat} (h : base + n ≤ 0xF00) :
    (drawSprite m base x0 y0 n).2 = true ↔
      ∃ u < 64, ∃ v < 32, rowsBit m base x0 y0 n u v = true ∧ m.pixel u v = true := by
  induction n with
  | zero => simp
  | succ n ih =>
    rw [drawSprite_succ, collided_drawSpriteRow, read_drawSprite_row _ _ _ _ h,
      ih (Nat.le_of_succ_le h)]
    simp only [← exists_or, ← and_or_left]
    refine exists_congr fun u => and_congr_right fun hu => exists_congr fun v =>
      and_congr_right fun hv => ?_
    rw [pixel_drawSprite _ _ _ _ (Nat.le_of_succ_le h) hu hv, rowsBit_succ]
    cases hc : columnBit (m.read (base + n)) x0 (y0 + n) 8 u v with
    | false => simp
    | true => simp [rowsBit_eq_false_of_columnBit m base x0 y0 hc]

/-! ### The obligations on a sprite below the framebuffer -/

variable {s x y n}

theorem State.pixel_afterDraw (h : s.effAddr + n.val ≤ 0xF00) {px py : Nat} (hx : px < 64)
    (hy : py < 32) :
    (s.afterDraw x y n).mem.pixel px py = xor (s.mem.pixel px py) (s.spriteBit x y n.val px py) :=
  pixel_drawSprite _ _ _ _ h hx hy

/-- VF after DRW: 1 exactly where a pixel went from 1 to 0 (R164). -/
theorem State.readV_VF_afterDraw_iff (h : s.effAddr + n.val ≤ 0xF00) :
    (s.afterDraw x y n).readV VF = 1 ↔ ∃ px < 64, ∃ py < 32,
      s.mem.pixel px py = true ∧ (s.afterDraw x y n).mem.pixel px py = false := by
  rw [State.readV_VF_afterDraw_eq_one]
  refine (collided_drawSprite _ _ _ _ h).trans (exists_congr fun px => and_congr_right fun hx =>
    exists_congr fun py => and_congr_right fun hy => ?_)
  rw [State.pixel_afterDraw h hx hy]
  exact (eq_true_and_xor_eq_false_iff _ _).symm

theorem exec_drw_belowFramebuffer (h : s.effAddr + n.val ≤ 0xF00) :
    exec (.drw x y n) s = .next (s.afterDraw x y n) :=
  exec_drw_inRange s x y n (.inr (h.trans (by decide)))

/-- Settles O45: pixel by pixel, since the rows read below the framebuffer are those of the start. -/
theorem drawXorsSpriteAndReportsCollision : Obligations.DrawXorsSpriteAndReportsCollision :=
  fun s x y n h => ⟨_, exec_drw_belowFramebuffer h, fun _ hx _ hy => State.pixel_afterDraw h hx hy,
    State.readV_VF_afterDraw_iff h, s.readV_VF_afterDraw_cases x y n,
    s.sameRegsExcept_afterDraw x y n, s.sameBytesOutside_afterDraw x y n,
    s.sameSpecial_afterDraw x y n⟩

/-- A state with the same coordinates and `I`, and with the sprite's bytes as they were, draws the same
sprite. -/
theorem State.spriteBit_congr {u : State} (hi : u.i = s.i) (hx : u.readV x = s.readV x)
    (hy : u.readV y = s.readV y) {k : Nat}
    (hbytes : ∀ r < k, u.byte (s.effAddr + r) = s.byte (s.effAddr + r)) (px py : Nat) :
    u.spriteBit x y k px py = s.spriteBit x y k px py := by
  have haddr : u.effAddr = s.effAddr := congrArg BitVec.toNat hi
  rw [State.spriteBit_eq_rowsBit, State.spriteBit_eq_rowsBit, haddr, hx, hy]
  exact rowsBit_congr _ _ _ hbytes px py

/-- Settles O46: the second draw XORs the same bits again, outside the framebuffer neither draw writes, and
VF follows from the pixels that the two draws turn on and off (R166). -/
theorem drawTwiceRestoresDisplay : Obligations.DrawTwiceRestoresDisplay := by
  intro s t u x y n h ht hmem hi hx hy
  obtain rfl := exec_drw_next s x y n ht
  have hu : u.effAddr + n.val ≤ 0xF00 := by rwa [State.effAddr, hi]
  have hbyte : ∀ a, ¬ (0xF00 ≤ a ∧ a < 0x1000) → u.byte a = s.byte a := fun a ha => by
    rw [State.byte, hmem]
    exact s.sameBytesOutside_afterDraw x y n a ha
  have hbit : ∀ px py, u.spriteBit x y n.val px py = s.spriteBit x y n.val px py :=
    State.spriteBit_congr hi hx hy fun r hr => hbyte _ (by omega)
  have hpixel : ∀ px < 64, ∀ py < 32,
      (u.afterDraw x y n).mem.pixel px py = s.mem.pixel px py := fun px hpx py hpy => by
    rw [State.pixel_afterDraw hu hpx hpy, hmem, State.pixel_afterDraw h hpx hpy, hbit,
      Bool.xor_assoc, Bool.xor_self, Bool.xor_false]
  refine ⟨_, exec_drw_belowFramebuffer hu, ?_, ?_, ?_⟩
  · refine read_eq_of_pixels (fun a ha => ?_) hpixel
    exact (u.sameBytesOutside_afterDraw x y n a ha).trans (hbyte a ha)
  · rintro ⟨px, hpx, py, hpy, hoff, hon⟩
    refine (State.readV_VF_afterDraw_iff hu).mpr ⟨px, hpx, py, hpy, hmem ▸ hon, ?_⟩
    rw [hpixel px hpx py hpy, hoff]
  · intro hclear
    refine (s.readV_VF_afterDraw_cases x y n).resolve_right fun hone => ?_
    obtain ⟨px, hpx, py, hpy, hset, -⟩ := (State.readV_VF_afterDraw_iff h).mp hone
    exact Bool.false_ne_true ((hclear px hpx py hpy).symm.trans hset)

end Sys2Proof.Machine
end

section
/-! ## What one instruction may change (R22, R28 to R36, R60) -/

namespace Sys2Proof.Machine

variable {i : Instr} {s t : State}

/-! ### The special registers -/

/-- A key test presses no key: the key it finds is released, the others stay (R184). -/
theorem key_of_keySkip {j : Instr} {x : Reg} {c : Bool} (h : keySkip j x c s = .next t) {q : Fin 16}
    (hq : t.key q = true) : s.key q = true := by
  obtain ⟨k, -, rfl⟩ := keySkip_next _ h
  rw [State.key_setKey, State.key_skipIf] at hq
  split at hq
  · exact nomatch hq
  · exact hq

/-- Settles O54: by the instruction, each writing through updates that say which fields they leave. -/
theorem specialRegistersHaveNamedWriters : Obligations.SpecialRegistersHaveNamedWriters := by
  intro i s t h
  cases i with
  | sys nnn => rw [ambiguousWord_next _ h]; simp
  | call nnn => obtain ⟨-, rfl⟩ := execCall_next h; simp
  | ret => obtain ⟨-, rfl⟩ := execRet_next h; simp
  | skp x | sknp x =>
    have hkeys : ∀ q, t.key q = true → s.key q = true := fun q => key_of_keySkip h
    obtain ⟨k, -, rfl⟩ := keySkip_next _ h
    simpa using hkeys
  | drw | ldBVx | storeRegs | loadRegs => rw [next_eq (checkRange_next _ h).2]; simp
  | rnd x kk => rw [next_eq h]; simp [State.writeRandom]
  | _ => rw [next_eq h]; simp

/-! ### Memory -/

/-- Settles O55: CALL, LD B and LD [I] store one block of bytes, CLS and DRW write the framebuffer, and every
other instruction leaves memory. -/
theorem memoryChangesOnlyWhereStored : Obligations.MemoryChangesOnlyWhereStored := by
  intro i s t h a ha
  cases i with
  | sys nnn => rw [ambiguousWord_next _ h]
  | cls =>
    rw [next_eq h, State.byte_setMem]
    exact read_clearDisplay_outside _ fun hin => ha ⟨hin.1, Nat.le_of_lt_succ hin.2⟩
  | call nnn =>
    obtain ⟨-, rfl⟩ := execCall_next h
    exact s.sameBytesOutside_store _ [_, _] a ha
  | ret => obtain ⟨-, rfl⟩ := execRet_next h; rfl
  | drw x y n =>
    rw [exec_drw_next s x y n h]
    exact s.sameBytesOutside_afterDraw x y n a fun hin => ha ⟨hin.1, Nat.le_of_lt_succ hin.2⟩
  | skp | sknp => obtain ⟨k, -, rfl⟩ := keySkip_next _ h; rfl
  | ldBVx x =>
    rw [next_eq (checkRange_next _ h).2]
    exact s.sameBytesOutside_store _ _ a (by rwa [length_bcdBytes])
  | storeRegs x =>
    rw [next_eq (checkRange_next _ h).2]
    exact s.sameBytesOutside_store _ _ a (by rwa [State.length_regBlock])
  | loadRegs => rw [next_eq (checkRange_next _ h).2]; rfl
  | _ => rw [next_eq h]; simp [State.writeRandom]

/-- Every instruction keeps memory canonical: what it writes, it writes byte by byte. -/
theorem exec_keeps_wf (hm : s.mem.wf) (h : exec i s = .next t) : t.mem.wf := by
  cases i with
  | sys nnn => rwa [ambiguousWord_next _ h]
  | cls => rw [next_eq h, State.setMem_mem]; exact wf_clearDisplay _ hm
  | call nnn => obtain ⟨-, rfl⟩ := execCall_next h; exact Memory.wf_writeList _ _ _ hm
  | ret => obtain ⟨-, rfl⟩ := execRet_next h; exact hm
  | drw x y n => rw [exec_drw_next s x y n h]; exact wf_drawSprite _ _ _ _ _ hm
  | skp | sknp => obtain ⟨k, -, rfl⟩ := keySkip_next _ h; exact hm
  | ldBVx | storeRegs => rw [next_eq (checkRange_next _ h).2]; exact Memory.wf_writeList _ _ _ hm
  | loadRegs => rw [next_eq (checkRange_next _ h).2]; exact hm
  | _ => rw [next_eq h]; simpa [State.writeRandom] using hm

/-! ### The general registers -/

/-- Settles O56: each write of registers says which others it leaves, and every other instruction leaves
all of them. -/
theorem registersChangeOnlyAsDestination : Obligations.RegistersChangeOnlyAsDestination := by
  intro i s t h r hr
  cases i with
  | sys nnn => rw [ambiguousWord_next _ h]
  | call nnn => obtain ⟨-, rfl⟩ := execCall_next h; rfl
  | ret => obtain ⟨-, rfl⟩ := execRet_next h; rfl
  | skp | sknp => obtain ⟨k, -, rfl⟩ := keySkip_next _ h; rfl
  | ldByte | addByte | ldReg | orReg | andReg | xorReg | rnd | ldVxDt =>
    rw [next_eq h]
    exact State.readV_writeV_of_ne _ _ (Ne.symm hr)
  | addReg | sub | shr | subn | shl =>
    rw [next_eq h]
    exact (State.writesOnlyRegs_writeResultFlag _ _ _ _).1 r (by simpa [WritesReg] using hr)
  | drw x y n =>
    rw [exec_drw_next s x y n h]
    exact s.sameRegsExcept_afterDraw x y n r (by simpa [WritesReg] using hr)
  | loadRegs x =>
    rw [next_eq (checkRange_next _ h).2, State.readV_setI, State.readV_setRegs_loadBlock]
    exact if_neg hr
  | ldBVx | storeRegs => rw [next_eq (checkRange_next _ h).2]; rfl
  | _ => rw [next_eq h]; simp

end Sys2Proof.Machine
end

section
/-! ## The invariant, along every step and every schedule (R29, R231) -/

namespace Sys2Proof.Machine

variable {s t : State} {r : Reply}

theorem State.Inv.of_eq (h : s.Inv) (hm : t.mem = s.mem) (hsp : t.sp = s.sp) : t.Inv := by
  rwa [State.Inv, hm, hsp]

/-- Only CALL with an entry free raises `sp`, so it stays at most 16 (R102, R103). -/
theorem exec_keeps_sp {i : Instr} (hs : s.sp.toNat ≤ Config.stackDepth) (h : exec i s = .next t) :
    t.sp.toNat ≤ Config.stackDepth := by
  obtain ⟨-, -, -, hwriters, -⟩ := specialRegistersHaveNamedWriters i s t h
  by_cases hsp : t.sp = s.sp
  · rwa [hsp]
  · obtain ⟨nnn, rfl⟩ | rfl := hwriters hsp
    · obtain ⟨hfree, rfl⟩ := execCall_next h
      exact (toNat_sp_add_one hfree).trans_le hfree
    · obtain ⟨hpos, rfl⟩ := execRet_next h
      exact (Nat.le_succ _).trans ((toNat_sp_sub_one hpos).trans_le hs)

theorem exec_keeps_inv {i : Instr} (hs : s.Inv) (h : exec i s = .next t) : t.Inv :=
  ⟨exec_keeps_wf hs.1 h, exec_keeps_sp hs.2 h⟩

theorem step_keeps_inv (hs : s.Inv) (h : step s = .next t) : t.Inv := by
  have hfetch : s.afterFetch.Inv := hs
  obtain rfl | ⟨-, ⟨i, -, hi⟩ | rfl⟩ := step_next h
  · exact hs
  · exact exec_keeps_inv hfetch hi
  · exact hfetch

/-- Settles O16: what a step changes, an instruction does, and each keeps both parts of the invariant. -/
theorem stepKeepsInvariant : Obligations.StepKeepsInvariant :=
  fun _ _ hs h => step_keeps_inv hs h

/-! ### The moves -/

theorem hostResolveWait_next {k : Nat} (h : hostResolveWait k s = .next t) :
    s.wait.flag = true ∧ k < 16 ∧
      t = (s.writeV s.wait.reg (BitVec.ofNat 8 k)).setWait { flag := false, reg := s.wait.reg } := by
  unfold hostResolveWait at h
  split at h
  · next hk => exact ⟨hk.1, hk.2, next_eq h⟩
  · exact nomatch h

theorem move_resolveWait_done {k : Nat} (h : move (.resolveWait k) s = .done t r) :
    s.wait.flag = true ∧ k < 16 ∧
      t = (s.writeV s.wait.reg (BitVec.ofNat 8 k)).setWait { flag := false, reg := s.wait.reg } :=
  hostResolveWait_next (moveResult_done (move_done h).2).1

theorem move_step_done (h : move .step s = .done t r) : step s = .next t ∧ r = .report (report s) :=
  moveResult_done (move_done h).2

/-- A move of any kind that faults only marks the state (R211). -/
theorem move_faulted {m : Move} (h : move m s = .faulted t) : ∃ f, t = s.mark f := by
  cases hs : s.fault with
  | some f => rw [move_marked m hs] at h; exact nomatch h
  | none =>
    rw [move_enabled m hs] at h
    cases m with
    | step | setKey | resolveWait =>
      obtain ⟨f, -, rfl⟩ := moveResult_faulted h
      exact ⟨f, rfl⟩
    | timerTick => exact nomatch h
    | readPixel x y =>
      simp only [enabledMove] at h
      split at h <;> exact nomatch h

theorem move_done_keeps_inv {m : Move} (hs : s.Inv) (h : move m s = .done t r) : t.Inv := by
  cases m with
  | step => exact step_keeps_inv hs (move_step_done h).1
  | setKey k b => obtain ⟨-, rfl⟩ := move_setKey_done h; exact hs
  | resolveWait k => obtain ⟨-, -, rfl⟩ := move_resolveWait_done h; exact hs
  | timerTick => rw [move_timerTick_done h]; exact hs
  | readPixel x y => rwa [move_readPixel_done h]

theorem move_faulted_keeps_inv {m : Move} (hs : s.Inv) (h : move m s = .faulted t) : t.Inv := by
  obtain ⟨f, rfl⟩ := move_faulted h
  exact hs

/-! ### Schedules -/

/-- What becomes of a schedule keeps `P` if every move that is made or that faults keeps it. -/
theorem runMoves_keeps {P : State → Prop}
    (hdone : ∀ {m s t r}, P s → move m s = .done t r → P t)
    (hfaulted : ∀ {m s t}, P s → move m s = .faulted t → P t) (ms : List Move) (hs : P s) :
    (∀ t r, runMoves ms s = .done t r → P t) ∧ (∀ t, runMoves ms s = .faulted t → P t) := by
  induction ms generalizing s with
  | nil =>
    exact ⟨fun t r h => (MoveResult.done.inj h).1 ▸ hs, fun t h => nomatch h⟩
  | cons m ms ih =>
    cases hm : move m s with
    | done u q => simpa only [runMoves, hm] using ih (hdone hs hm)
    | faulted u =>
      simp only [runMoves, hm]
      exact ⟨fun t r h => (nomatch h), fun t h => MoveResult.faulted.inj h ▸ hfaulted hs hm⟩
    | noMove | refused =>
      simp only [runMoves, hm]
      exact ⟨fun t r h => (nomatch h), fun t h => nomatch h⟩

/-- Settles O17: by induction on the schedule, since every move, made or faulted, keeps the invariant. -/
theorem everySchedulePreservesInvariant : Obligations.EverySchedulePreservesInvariant :=
  fun ms _ hs => runMoves_keeps move_done_keeps_inv move_faulted_keeps_inv ms hs

/-! ### Keys and the delay timer along a move -/

theorem key_of_step {k : Fin 16} (h : step s = .next t) (hk : t.key k = true) : s.key k = true := by
  obtain rfl | ⟨-, ⟨i, -, hi⟩ | rfl⟩ := step_next h
  · exact hk
  · obtain ⟨-, -, -, -, -, -, -, -, hkeys, -⟩ := specialRegistersHaveNamedWriters i _ t hi
    exact hkeys k hk
  · exact hk

/-- Settles O57: a step presses no key, the other moves but `set_key` leave all of them, and `set_key`
writes the one it names. -/
theorem onlySetKeyPressesAKey : Obligations.OnlySetKeyPressesAKey := by
  intro m s t r k h hoff hon
  have hsame : t.key k ≠ s.key k := by rw [hoff, hon]; decide
  cases m with
  | step => exact absurd (key_of_step (move_step_done h).1 hon) (by rw [hoff]; decide)
  | setKey j b =>
    obtain ⟨hj, rfl⟩ := move_setKey_done h
    rw [State.key_setKey] at hon
    split at hon
    · next hjk => rw [← hjk, hon]
    · exact absurd hon (by rw [hoff]; decide)
  | resolveWait j => obtain ⟨-, -, rfl⟩ := move_resolveWait_done h; exact absurd rfl hsame
  | timerTick => obtain rfl := move_timerTick_done h; exact absurd rfl hsame
  | readPixel x y => obtain rfl := move_readPixel_done h; exact absurd rfl hsame

theorem toNat_countDown (b : Byte) : (countDown b).toNat = b.toNat - 1 := by
  unfold countDown
  split
  · next h => rw [BitVec.toNat_sub_of_le (y := 1) h]; rfl
  · omega

/-- A step that changes DT ran LD DT, Vx (R31). -/
theorem step_changes_dt (h : step s = .next t) (hdt : t.dt ≠ s.dt) :
    ∃ x, decode s.fetchWord = .instr (.ldDtVx x) ∧ t.dt = s.readV x := by
  obtain rfl | ⟨-, ⟨i, hdec, hi⟩ | rfl⟩ := step_next h
  · exact absurd rfl hdt
  · obtain ⟨-, -, -, -, hwriter, -⟩ := specialRegistersHaveNamedWriters i _ t hi
    obtain ⟨x, rfl⟩ := hwriter hdt
    exact ⟨x, hdec, by rw [next_eq hi]; rfl⟩
  · exact absurd rfl hdt

/-- Settles O58: of the moves only the tick counts DT down, and of the instructions only LD DT, Vx
writes it. -/
theorem delayTimerChangesOnlyByTickOrLoad : Obligations.DelayTimerChangesOnlyByTickOrLoad := by
  intro m s t r h hdt
  cases m with
  | step => exact .inr ⟨rfl, step_changes_dt (move_step_done h).1 hdt⟩
  | timerTick =>
    obtain rfl := move_timerTick_done h
    have hcount : s.timerTick.dt.toNat = s.dt.toNat - 1 := toNat_countDown s.dt
    have hne : s.timerTick.dt.toNat ≠ s.dt.toNat := fun e => hdt (BitVec.eq_of_toNat_eq e)
    exact .inl ⟨rfl, by omega⟩
  | setKey k b => obtain ⟨_, rfl⟩ := move_setKey_done h; exact absurd rfl hdt
  | resolveWait k => obtain ⟨-, -, rfl⟩ := move_resolveWait_done h; exact absurd rfl hdt
  | readPixel x y => obtain rfl := move_readPixel_done h; exact absurd rfl hdt

end Sys2Proof.Machine
end

section
/-! ## How a step begins, and what it reports (R88 to R92, R211, R214, R256) -/

namespace Sys2Proof.Machine

variable {s : State}

@[simp] theorem State.afterFetch_params (s : State) : s.afterFetch.params = s.params := rfl

/-- The address that the instruction after a fetch records is its own (R212, log 8). -/
@[simp] theorem State.instrAddr_afterFetch (s : State) : s.afterFetch.instrAddr = s.pc :=
  BitVec.add_sub_cancel s.pc 2

/-- Settles O5: the two bytes are the word that the step fetches and decodes. -/
theorem stepRunsDecodedInstruction : Obligations.StepRunsDecodedInstruction := by
  intro s i hs hdec
  have hword : decode s.fetchWord = .instr i := hdec
  rw [step_fetched hs, hword]
  rfl

/-- Settles O6: an unrecognised word leaves the state after the fetch, an ambiguous one follows the policy. -/
theorem wordsThatAreNoInstruction : Obligations.WordsThatAreNoInstruction := by
  intro s hs
  refine ⟨fun hdec => ?_, fun hdec hp => ?_, fun hdec hp => ?_⟩ <;> rw [step_fetched hs, hdec]
  · rfl
  · exact ambiguousWord_noop s.afterFetch s.fetchWord hp
  · exact (ambiguousWord_refuse s.afterFetch s.fetchWord hp).trans (by rw [State.instrAddr_afterFetch])

theorem step_ended (hf : s.fault = none) (hw : s.wait.flag = false) (he : s.progEnd ≤ s.pc.toNat) :
    step s = .next s := by
  simp [step, stepStart_ended hf hw he]

theorem report_eq_ended_iff : report s = .ended ↔ s.wait.flag = false ∧ s.progEnd ≤ s.pc.toNat := by
  unfold report
  split_ifs <;> simp_all

theorem report_cont (hw : s.wait.flag = false) (he : s.pc.toNat < s.progEnd) : report s = .cont := by
  simp [report, hw, he]

/-- Settles O7: the latch is tested before the program's end, and a step that meets either test ends
there. -/
theorem blockedAndEndedStepsChangeNothing : Obligations.BlockedAndEndedStepsChangeNothing :=
  fun _ hf => ⟨fun hw => ⟨step_blocked hf hw, report_blocked hw⟩,
    fun hw he => ⟨step_ended hf hw he, report_eq_ended_iff.mpr ⟨hw, he⟩⟩, report_cont⟩

/-- Settles O8: alignment is tested first, then the range. -/
theorem fetchFaults : Obligations.FetchFaults := by
  intro s hf hw he
  refine ⟨fun hodd => ?_, fun heven hlow => ?_⟩
  · simp [step, stepStart_misaligned hf hw he hodd]
  · simp [step, stepStart_range hf hw he heven hlow]

/-- Settles O9: the move of the core marks the state of a step that faulted, and a marked state answers its
mark. -/
theorem faultMarkIsTheOnlyChangeAndSticks : Obligations.FaultMarkIsTheOnlyChangeAndSticks := by
  refine ⟨fun s f hf h => ?_, fun s f m hf => ⟨move_marked m hf, ?_⟩⟩
  · rw [move_enabled _ hf, enabledMove, h]
    rfl
  · simp [step, stepStart_marked hf]

/-- Settles O59: the step reports ENDED exactly where the latch is clear and `pc` is at the end, and a move
is made exactly where no fault is marked. -/
theorem runEndsExactlyAtEndedReport : Obligations.RunEndsExactlyAtEndedReport := by
  refine fun s => ⟨fun ⟨hw, he, hf⟩ => ?_, fun h => ?_⟩
  · rw [move_enabled _ hf, enabledMove, step_ended hf hw he, report_eq_ended_iff.mpr ⟨hw, he⟩]
    rfl
  · obtain ⟨-, hr⟩ := move_step_done h
    obtain ⟨hw, he⟩ := report_eq_ended_iff.mp (Reply.report.inj hr).symm
    exact ⟨hw, he, (move_done h).1⟩

/-! ### The word that the host places (log 23) -/

/-- All 16 bits of a word are in the table. -/
theorem tableWord_toNat (w : Word) : tableWord 16 w.toNat = w := by
  rw [tableWord, Nat.mod_eq_of_lt w.isLt, BitVec.ofNat_toNat, BitVec.setWidth_eq]

theorem State.fetchWord_placeWord (w : Word) (h : s.pc.toNat ≤ 0xE9E) :
    (s.placeWord w).fetchWord = w := by
  have hend : s.pc.toNat + [highByte w, lowByte w].length ≤ Config.memSize :=
    Nat.add_le_add_right (h.trans (by decide)) 2
  have hhi := s.byte_store_inside s.pc.toNat 0 [highByte w, lowByte w] (by simp) hend
  have hlo := s.byte_store_inside s.pc.toNat 1 [highByte w, lowByte w] (by simp) hend
  calc (s.placeWord w).fetchWord
    _ = wordOfBytes (highByte w) (lowByte w) := congrArg₂ wordOfBytes hhi hlo
    _ = w := wordOfBytes_high_low w

/-- The placed word lies inside the program. -/
theorem State.pc_lt_progEnd_placeWord (w : Word) (h0 : 0x200 ≤ s.pc.toNat) (h : s.pc.toNat ≤ 0xE9E) :
    s.pc.toNat < (s.placeWord w).progEnd := by
  have hcap : s.pc.toNat + 2 - Config.progBase ≤ Config.progCap := by
    simp only [Config.progBase, Config.progCap]
    omega
  have hlen : (s.placeWord w).progLen.val =
      max s.progLen.val (s.pc.toNat + 2 - Config.progBase) := by
    simp [State.placeWord, State.lenWithPc, hcap]
  rw [State.progEnd, hlen]
  simp only [Config.progBase]
  omega

theorem State.fetches_placeWord (w : Word) (heven : s.pc.toNat % 2 = 0) (h0 : 0x200 ≤ s.pc.toNat)
    (h : s.pc.toNat ≤ 0xE9E) : (s.placeWord w).Fetches := by
  have hpc : (s.placeWord w).pc = s.pc := rfl
  refine ⟨rfl, rfl, ?_⟩
  rw [hpc]
  exact ⟨State.pc_lt_progEnd_placeWord w h0 h, heven, h0⟩

/-- Settles O11: the placing makes the state one that fetches, and the word fetched is the one placed. -/
theorem placedWordRunsNext : Obligations.PlacedWordRunsNext := by
  intro s w heven h0 h
  rw [State.withFetchWord, tableWord_toNat, step_fetched (State.fetches_placeWord w heven h0 h),
    State.fetchWord_placeWord w h]
  rfl

end Sys2Proof.Machine
end

section
/-! ## Construction and reset (R39, R240, R242) -/

namespace Sys2Proof.Machine

/-! ### Memory after construction -/

section
variable (font : Vector Byte Config.fontSize) (image : List Byte)

theorem wf_constructMemory : (constructMemory font image).wf :=
  Memory.wf_writeList _ _ _ (Memory.wf_writeList _ _ _ Memory.wf_nil)

theorem read_constructMemory_font {a : Nat} (h : a < Config.fontSize) :
    (constructMemory font image).read a = font[a] := by
  have hlen : font.toList.length = Config.fontSize := font.length_toList
  have hin := Memory.read_writeList_inside [] 0 a font.toList (by rwa [hlen]) (by rw [hlen]; decide)
  rw [Nat.zero_add] at hin
  rw [constructMemory, Memory.read_writeList_outside _ _ _ _ (.inl (h.trans (by decide))), hin,
    Vector.getElem_toList]

theorem read_constructMemory_image {k : Nat} (h : k < image.length)
    (hfit : image.length ≤ Config.progCap) :
    (constructMemory font image).read (0x200 + k) = image[k] :=
  Memory.read_writeList_inside _ _ k image h
    ((Nat.add_le_add_left hfit _).trans (by decide))

/-- Outside FONT and the image every byte is 0. -/
theorem read_constructMemory_outside {a : Nat} (h0 : 80 ≤ a)
    (h : a < 0x200 ∨ 0x200 + image.length ≤ a) : (constructMemory font image).read a = 0 := by
  have hlen : font.toList.length = 80 := font.length_toList
  rw [constructMemory, Memory.read_writeList_outside _ _ _ _ h,
    Memory.read_writeList_outside _ _ _ _ (.inr (by omega)), Memory.read_nil]
  exact if_neg (Nat.not_lt.mpr h0)

end

/-! ### The obligations -/

/-- Settles O12: memory by its three parts, and the rest as construction writes it. -/
theorem constructionGivesTheListedState : Obligations.ConstructionGivesTheListedState := by
  intro font p image hfit
  refine ⟨_, dif_pos hfit, fun a h => read_constructMemory_font font image h,
    fun a h0 h => read_constructMemory_outside font image h0 (.inl h),
    fun k h => read_constructMemory_image font image h hfit,
    fun a h _ => read_constructMemory_outside font image (by omega) (.inr h),
    fun r => ?_, rfl, rfl, rfl, rfl, rfl, rfl, fun k => ?_, rfl, rfl, rfl,
    wf_constructMemory font image, Nat.zero_le _⟩
  · simp [State.readV]
  · simp [State.key]

/-- Settles O13: construction tests the image's length and nothing else. -/
theorem constructionFailsAboveCapacity : Obligations.ConstructionFailsAboveCapacity := by
  intro font p image
  unfold construct
  split
  · next h => simpa using h
  · next h => simpa using h

/-- The default FONT is what an unlisted address reads as, so constructing with no image lists nothing. -/
theorem constructMemory_default : constructMemory Config.font [] = [] := by
  refine Memory.ext_read (wf_constructMemory _ _) Memory.wf_nil fun a => ?_
  rw [Memory.read_nil, Memory.unlisted]
  split
  · next h =>
    rw [read_constructMemory_font _ _ h]
    exact (List.getD_eq_getElem Config.fontTable 0 h).symm
  · next h => exact read_constructMemory_outside _ _ (Nat.not_lt.mp h) (by simp; omega)

/-- Settles O14: the two states are written field by field alike, and neither lists a byte. -/
theorem resetIsConstructionOfNoProgram : Obligations.ResetIsConstructionOfNoProgram := by
  unfold Obligations.ResetIsConstructionOfNoProgram construct
  have hfit : ([] : List Byte).length ≤ Config.progCap := Nat.zero_le _
  rw [dif_pos hfit]
  simp only [constructMemory_default]
  rfl

/-- Settles O15: the empty list is canonical, and no entry is in use. -/
theorem resetMeetsInvariant : Obligations.ResetMeetsInvariant :=
  ⟨Memory.wf_nil, Nat.zero_le _⟩

end Sys2Proof.Machine
end

section
/-! ## Jumps with offset, SYS, bitwise operations, shifts, RND and the index register -/

namespace Sys2Proof.Machine

variable (s : State) (x y : Reg)

theorem exec_jpV0 (nnn : Addr12) :
    exec (.jpV0 nnn) s = .next (s.setPc (addrOperand nnn + wide (s.readV 0))) := rfl

theorem exec_orReg : exec (.orReg x y) s = .next (s.writeV x (s.readV x ||| s.readV y)) := rfl

theorem exec_andReg : exec (.andReg x y) s = .next (s.writeV x (s.readV x &&& s.readV y)) := rfl

theorem exec_xorReg : exec (.xorReg x y) s = .next (s.writeV x (s.readV x ^^^ s.readV y)) := rfl

theorem exec_shr :
    exec (.shr x y) s = .next (s.writeResultFlag x (s.shiftOperand x y >>> 1)
      (lowBitFlag (s.shiftOperand x y))) := rfl

theorem exec_shl :
    exec (.shl x y) s = .next (s.writeResultFlag x (s.shiftOperand x y <<< 1)
      (highBitFlag (s.shiftOperand x y))) := rfl

theorem exec_rnd (kk : Byte) :
    exec (.rnd x kk) s = .next ((s.writeV x (s.drawnByte &&& kk)).setDraws (s.draws + 1)) := rfl

theorem exec_ldFVx : exec (.ldFVx x) s = .next (s.setI (glyphAddr (s.readV x))) := rfl

theorem exec_addIVx : exec (.addIVx x) s = .next (s.setI (s.i + wide (s.readV x))) := rfl

/-- Settles O18: SYS is an ambiguous word, and the policy decides. -/
theorem sysFollowsPolicy : Obligations.SysFollowsPolicy :=
  fun s nnn => ⟨ambiguousWord_noop s (encode (.sys nnn)), ambiguousWord_refuse s (encode (.sys nnn))⟩

/-- Settles O20: the sum of a 12-bit and an 8-bit value fits in `pc`. -/
theorem jumpWithOffsetSetsPcToExactSum : Obligations.JumpWithOffsetSetsPcToExactSum :=
  fun s nnn => ⟨_, exec_jpV0 s nnn, toNat_addrOperand_add_wide nnn (s.readV 0), rfl⟩

/-- Settles O27: each is one write of V[X] with the operation of the two registers. -/
theorem bitwiseOperations : Obligations.BitwiseOperations := by
  intro s x y
  refine ⟨⟨_, exec_orReg s x y, s.writesOnlyRegs_writeV x _, fun k => ?_⟩,
    ⟨_, exec_andReg s x y, s.writesOnlyRegs_writeV x _, fun k => ?_⟩,
    ⟨_, exec_xorReg s x y, s.writesOnlyRegs_writeV x _, fun k => ?_⟩⟩ <;>
    rw [State.readV_writeV_self]
  · exact BitVec.getLsbD_or
  · exact BitVec.getLsbD_and
  · exact BitVec.getLsbD_xor

/-! ### Shifts -/

/-- The register that SHIFT_SOURCE names is the operand (R128, R130). -/
theorem State.shiftOperand_eq {z : Reg}
    (h : s.params.shiftSource = .vx ∧ z = x ∨ s.params.shiftSource = .vy ∧ z = y) :
    s.shiftOperand x y = s.readV z := by
  obtain ⟨hp, rfl⟩ | ⟨hp, rfl⟩ := h <;> simp [State.shiftOperand, hp]

theorem toNat_lowBitFlag (a : Byte) : (lowBitFlag a).toNat = a.toNat % 2 := by
  obtain h | h := Nat.mod_two_eq_zero_or_one a.toNat
  all_goals simp [lowBitFlag, flagByte, BitVec.getLsbD, Nat.testBit_zero, h]

theorem toNat_highBitFlag (a : Byte) : (highBitFlag a).toNat = a.toNat / 128 := by
  have ha := a.isLt
  obtain h | h : a.toNat / 128 = 0 ∨ a.toNat / 128 = 1 := by omega
  all_goals simp [highBitFlag, flagByte, BitVec.getLsbD, Nat.testBit_eq_decide_div_mod_eq, h]

/-- Settles O30: both are `WriteResultFlag` of the shifted operand and the bit shifted out. -/
theorem shiftsWriteResultAndShiftedOutBit : Obligations.ShiftsWriteResultAndShiftedOutBit := by
  intro s x y z hz
  have hop := s.shiftOperand_eq x y hz
  refine ⟨⟨_, exec_shr s x y, s.resultAndFlag_writeResultFlag x ?_ ?_,
      s.writesOnlyRegs_writeResultFlag x _ _⟩,
    ⟨_, exec_shl s x y, s.resultAndFlag_writeResultFlag x ?_ ?_,
      s.writesOnlyRegs_writeResultFlag x _ _⟩⟩ <;> rw [hop]
  · rw [BitVec.toNat_ushiftRight, Nat.shiftRight_eq_div_pow]
  · exact toNat_lowBitFlag _
  · rw [BitVec.toNat_shiftLeft, Nat.shiftLeft_eq, Nat.mul_comm]
  · exact toNat_highBitFlag _

/-! ### RND and the index register -/

/-- Settles O31: the draw is the one of the counter, which moves on. -/
theorem randomIsDrawMaskedByByte : Obligations.RandomIsDrawMaskedByByte := by
  intro s x kk
  refine ⟨_, exec_rnd s x kk, fun k => ?_, ?_, fun _ => rfl, by simp [SameSpecial]⟩
  · rw [State.readV_setDraws, State.readV_writeV_self]
    exact BitVec.getLsbD_and
  · exact fun r hr => State.readV_writeV_of_ne _ _ (Ne.symm (List.ne_of_not_mem_cons hr))

/-- Five times a byte fits in `I` (R151). -/
theorem toNat_glyphAddr (b : Byte) : (glyphAddr b).toNat = 5 * b.toNat := by
  have hb := b.isLt
  rw [glyphAddr, BitVec.toNat_ofNat]
  omega

/-- Settles O33: each is one write of `I`. -/
theorem indexFromRegister : Obligations.IndexFromRegister := by
  refine fun s x => ⟨⟨_, exec_ldFVx s x, toNat_glyphAddr _, rfl⟩, _, exec_addIVx s x, ?_, rfl⟩
  rw [State.setI_i, BitVec.toNat_add, toNat_wide]

end Sys2Proof.Machine
end

section
/-! ## Keys, the latch and the host's moves (R180 to R184, R232 to R236) -/

namespace Sys2Proof.Machine

variable (s : State) (x : Reg)

/-! ### Key skips -/

section
variable {s x} {i : Instr} {c : Bool}

theorem keySkip_key {k : Fin 16} (hk : (s.readV x).toNat = k.val) :
    keySkip i x c s = .next ((s.skipIf (s.key k == c)).setKey k false) := by
  have hkey : keyOperand (s.readV x) = some k := by
    rw [keyOperand_lt (hk ▸ k.isLt)]
    exact congrArg some (Fin.ext hk)
  rw [keySkip, hkey]

theorem keySkip_noKey (h : 15 < (s.readV x).toNat) :
    keySkip i x c s = .fault (.keyRange (s.pc - 2) (encode i) (s.readV x)) := by
  rw [keySkip, keyOperand_ge h]
  rfl

/-- What a key skip of a key that exists does: `pc` by the key's state, the key released, nothing else. -/
theorem keySkip_consumes {k : Fin 16} (hk : (s.readV x).toNat = k.val) :
    ∃ t, keySkip i x c s = .next t ∧ t.pc = (if s.key k = c then s.pc + 2 else s.pc) ∧
      t.key k = false ∧ (∀ q, q ≠ k → t.key q = s.key q) ∧
      t = { s with pc := t.pc, keys := t.keys } := by
  refine ⟨_, keySkip_key hk, by simp, ?_, fun q hq => ?_, rfl⟩
  · rw [State.key_setKey, if_pos rfl]
  · rw [State.key_setKey, if_neg (Ne.symm hq), State.key_skipIf]

end

/-- Settles O47: SKP and SKNP are one key test, with either state of the key to skip at. -/
theorem keySkipsConsumeTheKey : Obligations.KeySkipsConsumeTheKey :=
  fun _ _ => ⟨fun _ hk => ⟨keySkip_consumes hk, keySkip_consumes hk⟩,
    fun h => ⟨keySkip_noKey h, keySkip_noKey h⟩⟩

/-! ### The latch -/

/-- Settles O48: LD Vx, K writes the latch, and with the latch set the step is blocked. -/
theorem keyWaitSetsLatch : Obligations.KeyWaitSetsLatch :=
  fun s x hf => ⟨_, exec_ldVxK s x, rfl, step_blocked hf rfl, report_blocked rfl⟩

/-! ### The host's moves -/

section
variable {s} {k : Nat}

theorem move_setKey (hf : s.fault = none) (b : Bool) (hk : k < 16) :
    move (.setKey k b) s = .done (s.setKey ⟨k, hk⟩ b) .nothing := by
  rw [move_enabled _ hf, enabledMove, hostSetKey, dif_pos hk]
  rfl

theorem move_setKey_refused (hf : s.fault = none) (b : Bool) (hk : 15 < k) :
    move (.setKey k b) s = .refused .hostPrecondition := by
  rw [move_enabled _ hf, enabledMove, hostSetKey, dif_neg (Nat.not_lt.mpr hk)]
  rfl

theorem move_resolveWait (hf : s.fault = none) (hw : s.wait.flag = true) (hk : k < 16) :
    move (.resolveWait k) s = .done
      ((s.writeV s.wait.reg (BitVec.ofNat 8 k)).setWait { flag := false, reg := s.wait.reg })
      .nothing := by
  rw [move_enabled _ hf, enabledMove, hostResolveWait, if_pos ⟨hw, hk⟩]
  rfl

theorem move_resolveWait_refused (hf : s.fault = none) (h : s.wait.flag = false ∨ 15 < k) :
    move (.resolveWait k) s = .refused .hostPrecondition := by
  have hpre : ¬ (s.wait.flag = true ∧ k < 16) := fun ⟨hw, hk⟩ =>
    h.elim (fun hoff => Bool.false_ne_true (hoff.symm.trans hw)) (Nat.not_lt.mpr · hk)
  rw [move_enabled _ hf, enabledMove, hostResolveWait, if_neg hpre]
  rfl

end

/-- Settles O50: the move is one write of the key table, of a key that exists. -/
theorem setKeyWritesOneKey : Obligations.SetKeyWritesOneKey := by
  refine fun s k b hf => ⟨fun hk => ⟨_, move_setKey hf b hk, ?_, fun q hq => ?_, rfl⟩,
    move_setKey_refused hf b⟩
  · rw [State.key_setKey, if_pos rfl]
  · rw [State.key_setKey, if_neg fun e => hq (congrArg Fin.val e.symm)]

/-- Settles O51: the move writes the target and then the latch, while blocked and for a key that exists. -/
theorem resolveWaitWritesTargetAndClearsLatch : Obligations.ResolveWaitWritesTargetAndClearsLatch := by
  refine fun s k hf => ⟨fun hw hk => ⟨_, move_resolveWait hf hw hk, ?_, rfl, rfl, fun r hr => ?_, rfl⟩,
    move_resolveWait_refused hf⟩
  · rw [State.readV_setWait, State.readV_writeV_self, BitVec.toNat_ofNat]
    omega
  · rw [State.readV_setWait]
    exact State.readV_writeV_of_ne _ _ (Ne.symm (List.ne_of_not_mem_cons hr))

/-- Settles O52: each timer by its own count. -/
theorem timerTickCountsDown : Obligations.TimerTickCountsDown :=
  fun s hf => ⟨s.timerTick, move_enabled _ hf, toNat_countDown s.dt, toNat_countDown s.st, rfl⟩

/-- Settles O53: the pixel read is the bit of R160 of its byte. -/
theorem readPixelReturnsBit : Obligations.ReadPixelReturnsBit := by
  intro s x y hf
  rw [move_enabled _ hf, enabledMove, hostReadPixel]
  refine ⟨fun hx hy => ?_, fun h => ?_⟩
  · rw [if_pos ⟨hx, hy⟩]
    rfl
  · rw [if_neg (by simp only [Config.fbWidth, Config.fbHeight]; omega)]

end Sys2Proof.Machine
end
